-- ==== Sys2Proof/Word.lean ====
section
/-! DEFINITION. The word type, the register index and the XLEN names (00_scope.md R9 to R11). -/

namespace Sys2Proof

/-- A register, address or CSR container: 64 bits, the widest XLEN the spec gives a meaning (R102). -/
abbrev Word := BitVec 64

/-- One byte of memory (R450). -/
abbrev Byte := BitVec 8

/-- A 5-bit integer register specifier (R681). -/
abbrev RegIdx := BitVec 5

/-- The two register widths the spec gives a meaning (R11, R102; RV128 is refused by R102). -/
inductive Xlen where
  | x32
  | x64
deriving DecidableEq, Repr

/-- `XLEN` in bits (R11). -/
def Xlen.bits : Xlen → Nat
  | .x32 => 32
  | .x64 => 64

/-- The nominal privilege levels of R31; level 2 is reserved and never held. -/
inductive Priv where
  | user
  | supervisor
  | machine
deriving DecidableEq, Repr

/-- The level's encoding (R31): 0 U, 1 S, 3 M. -/
def Priv.code : Priv → BitVec 2
  | .user => 0
  | .supervisor => 1
  | .machine => 3

end Sys2Proof
end

