-- ==== Sys2Proof/Machine/Bits.lean ====
section
/-! DEFINITION. Bit helpers: the width conversions of 10_state.md R36 and R52, flags at bit positions, fields. -/

namespace Sys2Proof.Machine

open Sys2Proof

/-- Keep the low XLEN bits and sign-extend (R36: results and `pc`). -/
def sxTo : Xlen → Word → Word
  | .x64, w => w
  | .x32, w => (w.setWidth 32).signExtend 64

/-- Keep the low XLEN bits and zero-extend (R502: addresses; R52: a narrowed CSR). -/
def zxTo : Xlen → Word → Word
  | .x64, w => w
  | .x32, w => (w.setWidth 32).setWidth 64

/-- The bits a register of this width has. -/
def widthMask : Xlen → Word
  | .x64 => ~~~0#64
  | .x32 => 0xFFFFFFFF#64

/-- `v` is the sign-extension of its low `k` bits. -/
def signExtendsFrom (k : Nat) (v : Word) : Bool :=
  v.toNat >>> (k - 1) == 0 || v.toNat >>> (k - 1) == 2 ^ (65 - k) - 1

/-- The `k`-bit sign-extended value with the low `k - 1` bits of `v` and the sign opposite to the bit below it: no valid
address has it, where `k` exceeds every valid address by two bits (R170). -/
def invalidWithLow (k : Nat) (v : Word) : Word :=
  let low := v.toNat % 2 ^ (k - 1)
  if v.getLsbD (k - 2) then BitVec.ofNat 64 low else BitVec.ofNat 64 (low + (2 ^ 64 - 2 ^ (k - 1)))

/-- A flag at bit position `i`. -/
def flag (b : Bool) (i : Nat) : Word := if b then BitVec.ofNat 64 (2 ^ i) else 0

/-- A two-bit field at bit positions `i+1:i`. -/
def field2 (v : BitVec 2) (i : Nat) : Word := (v.setWidth 64) <<< i

/-- Bits `lo+n-1:lo` of a word as a number. -/
def bitsAt (w : Word) (lo n : Nat) : Nat := (w.toNat >>> lo) % 2 ^ n

/-- A word with ones in bits `hi-1:lo`. -/
def ones (lo hi : Nat) : Word := BitVec.ofNat 64 (2 ^ hi - 2 ^ lo)

/-- `new` where `mask` has ones, `old` elsewhere: a write to the writable bits of a register (R41). -/
def merge (mask old new : Word) : Word := (old &&& ~~~mask) ||| (new &&& mask)

/-- The encoding of an XLEN in MXL, SXL, UXL and VSXL (R101): 1 = 32, 2 = 64. -/
def xlCode : Xlen → BitVec 2
  | .x32 => 1
  | .x64 => 2

/-- The XLEN an encoding names; 0 and 3 name none (R102). -/
def xlOfCode (c : BitVec 2) : Option Xlen :=
  if c = 1 then some .x32 else if c = 2 then some .x64 else none

/-- The sign-extension of `n` low bytes (R1003). -/
def sextBytes (n : Nat) (v : Word) : Word :=
  if n = 1 then (v.setWidth 8).signExtend 64
  else if n = 2 then (v.setWidth 16).signExtend 64
  else if n = 4 then (v.setWidth 32).signExtend 64
  else v

/-- The zero-extension of `n` low bytes (R1003). -/
def zextBytes (n : Nat) (v : Word) : Word :=
  if n = 1 then (v.setWidth 8).setWidth 64
  else if n = 2 then (v.setWidth 16).setWidth 64
  else if n = 4 then (v.setWidth 32).setWidth 64
  else v

/-- Byte `i` of a word, byte 0 the least significant. -/
def byteOf (w : Word) (i : Nat) : Byte := (w >>> (8 * i)).setWidth 8

/-- `w` with byte `i` replaced. -/
def setByte (w : Word) (i : Nat) (b : Byte) : Word :=
  merge (BitVec.ofNat 64 (0xFF * 2 ^ (8 * i))) w (b.setWidth 64 <<< (8 * i))

/-- The value of bytes in rising significance. -/
def ofBytes : List Byte → Word
  | [] => 0
  | b :: t => b.setWidth 64 ||| (ofBytes t <<< 8)

/-- The number of trailing one bits among the low `fuel` bits (R474). -/
def trailingOnes : Nat → Nat → Nat
  | 0, _ => 0
  | fuel + 1, n => if n % 2 = 1 then trailingOnes fuel (n / 2) + 1 else 0

end Sys2Proof.Machine
end

