-- ==== Sys2Proof/Config.lean ====
section
/-! DEFINITION. The implementation parameters of 00_scope.md R8 as plain data, the reference instance of
92_eei_decisions.md D1, and the free values (opaque constants without a body) that the manual leaves open. -/

namespace Sys2Proof

/-- The two kinds of non-vacant region (R453); an address in no region is vacant. -/
inductive RegionKind where
  | mainMemory
  | io
deriving DecidableEq, Repr

/-- AMO support levels (R456, Table 3.9), in rising order. -/
inductive AmoClass where
  | none
  | swap
  | logical
  | arithmetic
deriving DecidableEq, Repr

/-- Reservability levels (R458). -/
inductive RsrvClass where
  | none
  | nonEventual
  | eventual
deriving DecidableEq, Repr

/-- Memory-ordering attribute of a region (R460, R461). -/
inductive RegionOrdering where
  | mainMemory
  | ioRelaxed
  | ioStrong (channel : Nat)
deriving DecidableEq, Repr

/-- One region of the PMA map with the attribute record of R466. -/
structure PmaRegion where
  base : Nat
  size : Nat
  kind : RegionKind
  /-- Supported access widths in bytes for reads, writes and fetches (R454). -/
  read : List Nat
  write : List Nat
  exec : List Nat
  /-- Widths whose misaligned loads and whose misaligned stores complete (R454, `MISALIGNED_OK` of R505). -/
  misalignedRead : List Nat
  misalignedWrite : List Nat
  /-- A refused misaligned access is an access fault here, not address-misaligned (R459, R464). -/
  misalignedFaults : Bool
  ptwRead : Bool
  ptwWrite : Bool
  amo : AmoClass
  rsrv : RsrvClass
  ordering : RegionOrdering
  idempotentRead : Bool
  idempotentWrite : Bool
  cacheable : Bool
  coherent : Bool
deriving DecidableEq, Repr

/-- What a trap-vector register can hold (`MTVEC_LEGAL`, `STVEC_LEGAL`, `VSTVEC_LEGAL`; R140, R141, R260). -/
structure TvecLegal where
  /-- The value of a read-only register; R140 leaves it to the implementation, so it is a parameter. -/
  fixed : Option Word
  /-- MODE = Direct is supported. -/
  direct : Bool
  /-- MODE = Vectored is supported. -/
  vectored : Bool
  /-- log2 of the BASE alignment under each MODE; at least 2. -/
  alignDirect : Nat
  alignVectored : Nat
  /-- The writable bits of BASE; the others are zero (the family of sets is the model's, DESIGN CHOICE, log 14). -/
  baseMask : Word
deriving DecidableEq, Repr

/-- Legal values of an XL field (`SXL_SET`, `UXL_SET`, `VSXL_SET`, `VUXL_SET`; R118, R332, R392): one width, both
widths, or a read-only copy of the XLEN of the next higher mode (SXLEN = MXLEN, UXLEN = SXLEN, VSXLEN = HSXLEN,
VU-mode XLEN = VSXLEN). UXL exists only while MXLEN is 64, so that UXLEN = MXLEN is the one width 64. -/
inductive XlSet where
  | only (x : Xlen)
  | both
  | copy
deriving DecidableEq, Repr

/-- Legal values of an endianness field (`MBE_SET` and its siblings, R124, R341, R394): one order, both, or a
read-only copy of another field. -/
inductive EndianSet where
  | littleOnly
  | bigOnly
  | both
  | copyMbe
  | copySbe
  | copyVsbe
deriving DecidableEq, Repr

/-- Which addresses an `xepc` or `xtval` register can hold (`XEPC_LEGAL`, R170; `XTVAL_LEGAL`, R177): all, or those
that are the sign-extension of their low `bits` bits (the family of sets is the model's, DESIGN CHOICE, log 26). -/
inductive AddrSet where
  | all
  | bits (k : Nat)
deriving DecidableEq, Repr

/-- The two A/D schemes (R562). -/
inductive AdUpdate where
  | fault
  | hardware
deriving DecidableEq, Repr

/-- `MISALIGNED_PRIORITY` (R873). -/
inductive MisalignedPriority where
  | first
  | last
deriving DecidableEq, Repr

/-- `wlrl_f` of an Exception Code field (R47, R729; D4): store the low `bits` bits, or trap on a code
that is not supported. -/
inductive CausePolicy where
  | store (bits : Nat)
  | trapUnsupported (bits : Nat)
deriving DecidableEq, Repr

/-- The implemented Exception Code bits. -/
def CausePolicy.bits : CausePolicy → Nat
  | .store bits => bits
  | .trapUnsupported bits => bits

/-- A write of an unsupported code traps. -/
def CausePolicy.traps : CausePolicy → Bool
  | .store _ => false
  | .trapUnsupported _ => true

/-- The parameters of R8. -/
structure Config where
  /-- `MXLEN` at reset: the widest supported XLEN (R102). -/
  widest : Xlen
  mxlWritable : Bool
  misaPresent : Bool
  misaExt : BitVec 26
  misaWritable : BitVec 26
  /-- `ILEN` (R178). -/
  ilen : Nat
  sxl : XlSet
  uxl : XlSet
  /-- UXL says UXLEN also while SXLEN is 32 (R118: no check against the mode above), where R254 has UXLEN = 32 (log 28). -/
  uxlUnchecked : Bool
  vsxl : XlSet
  vuxl : XlSet
  mbe : EndianSet
  sbe : EndianSet
  ube : EndianSet
  vsbe : EndianSet
  vube : EndianSet
  mvendorid : BitVec 32
  marchid : Word
  mimpid : Word
  mhartid : Word
  mconfigptr : Word
  mtvec : TvecLegal
  stvec : TvecLegal
  vstvec : TvecLegal
  medelegMask : Word
  midelegMask : Word
  /-- The bits of `mideleg` for SEI, STI and SSI (9, 5 and 1) that are read-only one (R145). -/
  midelegOnes : Word
  /-- The standard supervisor interrupts (bits 9, 5 and 1) that are implemented (R268). -/
  sIrqMask : Word
  /-- `HEDELEG_MASK`: the bits of Table 8.2 that are `either`, and those not in it (R343). -/
  hedelegMask : Word
  hidelegMask : Word
  mipPlatformMask : Word
  hvipPlatformMask : Word
  /-- Bit n: counter n (3..31) is implemented (R162). -/
  hpmImplemented : BitVec 32
  /-- The event set of a counter that is listed here; one that is not listed holds every event value (R162; the
  values are the platform's, log 14). -/
  hpmEvents : List (Nat × List Word)
  /-- The bits of precision of a counter that is listed here; one that is not listed has 64 (R162). -/
  hpmWidths : List (Nat × Nat)
  mcounterenMask : BitVec 32
  scounterenMask : BitVec 32
  hcounterenMask : BitVec 32
  mcountinhibitMask : BitVec 32
  mcountinhibitPresent : Bool
  /-- FS (VS) is plain WARL storage rather than read-only zero (R130, R135). -/
  fsWritable : Bool
  vsWritable : Bool
  mcausePolicy : CausePolicy
  scausePolicy : CausePolicy
  vscausePolicy : CausePolicy
  /-- An illegal write of `hstatus.VGEIN` traps (R47, R336). -/
  vgeinTraps : Bool
  /-- Bit c: exception c writes zero to `xtval` (`XTVAL_POLICY`, R176, R862). -/
  xtvalZero : Word
  mtvalReadOnlyZero : Bool
  /-- A trap saves the `pc` of a narrower mode zero-extended (D54), not sign-extended as it is held (R864; log 43). -/
  epcZeroExtends : Bool
  xepcLegal : AddrSet
  xtvalLegal : AddrSet
  /-- `XTVAL2_POLICY` (R370, R413): write zero instead of the guest physical address. -/
  xtval2Zero : Bool
  /-- `HTVAL_LEGAL` (R373, R413): `htval` and `mtval2` hold the values below `2 ^ htvalBits` (the family of sets is the
  model's, DESIGN CHOICE, log 26). -/
  htvalBits : Nat
  /-- `XTINST_POLICY` (R938), for each trap: bit c: exception c writes the transformed instruction, else zero. -/
  xtinstTransformed : Word
  palen : Nat
  pmpCount : Nat
  pmpG : Nat
  /-- Bit i: entry i of the PMP is read-only zero (R470). -/
  pmpReadOnlyZero : BitVec 64
  /-- The entries that the platform resets to another value, with `pmp<i>cfg` and `pmpaddr<i>` (R960). -/
  pmpReset : List (Nat × Byte × Word)
  pma : List PmaRegion
  sv32 : Bool
  sv39 : Bool
  sv48 : Bool
  sv57 : Bool
  sv32x4 : Bool
  sv39x4 : Bool
  sv48x4 : Bool
  sv57x4 : Bool
  /-- Implemented bits of `satp.PPN` and `vsatp.PPN`, and of `hgatp.PPN` (R300, R378). -/
  ppnBits : Nat
  gppnBits : Nat
  asidLen : Nat
  vmidLen : Nat
  geilen : Nat
  /-- VGEIN is read-only zero where GEILEN is zero (R336). -/
  vgeinReadOnlyZero : Bool
  adUpdate : AdUpdate
  misalignedPriority : MisalignedPriority
  svnapot : Bool
  svpbmt : Bool
  svinval : Bool
  /-- `TW_LIMIT` (R757, D49). -/
  twLimit : Nat
  resetVector : Word
  resetCause : Word
  nmiVector : Word
  nmiCause : Word
  mtimeAddr : Nat
  mtimecmpAddr : Nat
  msipAddr : Nat
  hasTimeCsr : Bool
  /-- FIOM is writable in `menvcfg`, `senvcfg`, `henvcfg` (`ENVCFG_MASK`, R186). -/
  mFiomWritable : Bool
  sFiomWritable : Bool
  hFiomWritable : Bool
  /-- `VSATP_V0_UNSUPPORTED` (R408): true = the write is ignored. -/
  vsatpV0Ignore : Bool
  nonleafDauFault : Bool
  /-- `TC_REFILL` (R570, R573, D44). -/
  tcRefill : Bool
  sfenceBareIllegal : Bool
  /-- `PLATFORM_IRQ_PRIORITY` (R893, D56): true = above the standard interrupts of the destination. -/
  platformFirst : Bool
deriving DecidableEq, Repr

/-- Main memory of the default platform (D35): everything supported but misaligned accesses. -/
def Config.mainRegion (base size : Nat) : PmaRegion :=
  { base := base, size := size, kind := .mainMemory
    read := [1, 2, 4, 8], write := [1, 2, 4, 8], exec := [2, 4]
    misalignedRead := [], misalignedWrite := [], misalignedFaults := false
    ptwRead := true, ptwWrite := true
    amo := .arithmetic, rsrv := .eventual, ordering := .mainMemory
    idempotentRead := true, idempotentWrite := true, cacheable := true, coherent := true }

/-- A register device of the default platform (D35): aligned accesses of the given widths, no fetch, no
atomics, no page tables. -/
def Config.deviceRegion (base size : Nat) (widths : List Nat) : PmaRegion :=
  { base := base, size := size, kind := .io
    read := widths, write := widths, exec := []
    misalignedRead := [], misalignedWrite := [], misalignedFaults := false
    ptwRead := false, ptwWrite := false
    amo := .none, rsrv := .none, ordering := .ioStrong 1
    idempotentRead := true, idempotentWrite := true, cacheable := false, coherent := true }

/-- Every `xtvec` of D1: writable, BASE 4-byte aligned, both MODEs. -/
def Config.anyTvec : TvecLegal :=
  { fixed := none, direct := true, vectored := true, alignDirect := 2, alignVectored := 2, baseMask := ~~~0 }

/-- The reference instance of D1, with the hypervisor extension, Svnapot, Svpbmt and Svinval. -/
def Config.reference : Config where
  widest := .x64
  mxlWritable := false
  misaPresent := true
  misaExt := 0x0141181#26
  misaWritable := 0
  ilen := 32
  sxl := .copy
  uxl := .copy
  uxlUnchecked := false
  vsxl := .copy
  vuxl := .copy
  mbe := .littleOnly
  sbe := .littleOnly
  ube := .littleOnly
  vsbe := .littleOnly
  vube := .littleOnly
  mvendorid := 0
  marchid := 0
  mimpid := 0
  mhartid := 0
  mconfigptr := 0
  mtvec := Config.anyTvec
  stvec := Config.anyTvec
  vstvec := Config.anyTvec
  medelegMask := 0xFFFFFFFFFFFFFFFF#64
  midelegMask := 0x222#64
  midelegOnes := 0
  sIrqMask := 0x222#64
  hedelegMask := 0#64
  hidelegMask := 0#64
  mipPlatformMask := 0
  hvipPlatformMask := 0
  hpmImplemented := 0
  hpmEvents := []
  hpmWidths := []
  mcounterenMask := 0xFFFFFFFF#32
  scounterenMask := 0xFFFFFFFF#32
  hcounterenMask := 0xFFFFFFFF#32
  mcountinhibitMask := 0xFFFFFFFD#32
  mcountinhibitPresent := true
  fsWritable := true
  vsWritable := true
  mcausePolicy := .store 6
  scausePolicy := .store 6
  vscausePolicy := .store 6
  vgeinTraps := false
  xtvalZero := 0
  mtvalReadOnlyZero := false
  epcZeroExtends := false
  xepcLegal := .all
  xtvalLegal := .all
  xtval2Zero := false
  htvalBits := 64
  xtinstTransformed := 0
  palen := 56
  pmpCount := 16
  pmpG := 0
  pmpReadOnlyZero := 0
  pmpReset := []
  pma := [Config.mainRegion 0x80000000 0x08000000,
          Config.deviceRegion 0x02000000 4 [4],
          Config.deviceRegion 0x02004000 8 [4, 8],
          Config.deviceRegion 0x0200BFF8 8 [4, 8]]
  sv32 := false
  sv39 := true
  sv48 := true
  sv57 := false
  sv32x4 := false
  sv39x4 := true
  sv48x4 := true
  sv57x4 := false
  ppnBits := 44
  gppnBits := 44
  asidLen := 16
  vmidLen := 14
  geilen := 0
  vgeinReadOnlyZero := true
  adUpdate := .fault
  misalignedPriority := .first
  svnapot := true
  svpbmt := true
  svinval := true
  twLimit := 0
  resetVector := 0x80000000#64
  resetCause := 0
  nmiVector := 0x80000000#64
  nmiCause := 0
  mtimeAddr := 0x0200BFF8
  mtimecmpAddr := 0x02004000
  msipAddr := 0x02000000
  hasTimeCsr := true
  mFiomWritable := true
  sFiomWritable := true
  hFiomWritable := true
  vsatpV0Ignore := true
  nonleafDauFault := true
  tcRefill := false
  sfenceBareIllegal := false
  platformFirst := true

/-- Extension letters as bits of `misa` (R103). -/
def Config.bitA : Nat := 0
def Config.bitC : Nat := 2
def Config.bitD : Nat := 3
def Config.bitE : Nat := 4
def Config.bitF : Nat := 5
def Config.bitH : Nat := 7
def Config.bitI : Nat := 8
def Config.bitM : Nat := 12
def Config.bitQ : Nat := 16
def Config.bitS : Nat := 18
def Config.bitU : Nat := 20

/-- A trap-vector parameter is legal: some MODE is supported, BASE is at least 4-byte aligned, more under each MODE as it
imposes (R140, R141), and the value of a read-only register has a supported MODE (R141). -/
def TvecLegal.wf (t : TvecLegal) : Bool :=
  (t.direct || t.vectored) && decide (2 ≤ t.alignDirect) && decide (2 ≤ t.alignVectored)
  && (match t.fixed with
    | none => true
    | some w => (w.extractLsb' 0 2 == 0#2 && t.direct) || (w.extractLsb' 0 2 == 1#2 && t.vectored))

/-- A trap-vector register after reset: its fixed value, or BASE = 0 with the lowest supported MODE, which R963 wants
legal (DESIGN CHOICE, log 3). -/
def TvecLegal.reset (t : TvecLegal) : Word := t.fixed.getD (if t.direct then 0 else 1)

/-- The endianness parameters are legal: a field copies one of a more privileged mode only (R124, R341, R394). -/
def Config.endianWf (c : Config) : Bool :=
  let own (e : EndianSet) : Bool := e == .littleOnly || e == .bigOnly || e == .both
  own c.mbe && (own c.sbe || c.sbe == .copyMbe)
  && (own c.ube || c.ube == .copyMbe || (c.ube == .copySbe && c.misaExt.getLsbD Config.bitS))
  && (own c.vsbe || c.vsbe == .copySbe) && (own c.vube || c.vube == .copyVsbe)

/-- The least width of the addresses that `xepc` and `xtval` hold, where they do not hold all: the widest address that is
valid under a supported scheme, physical, virtual (R553) or guest physical (R632), with one bit more for a scheme whose
addresses are signed and two for the others. R170 and R177 ask only that every valid address is held; the bit that this
leaves for an invalid address beside each valid one is the model's (DESIGN CHOICE, log 26). -/
def Config.addressBits (c : Config) : Nat :=
  let va : Nat := if c.sv57 then 58 else if c.sv48 then 49 else if c.sv39 then 40 else if c.sv32 then 34 else 0
  let gpa : Nat := if c.sv57x4 then 61 else if c.sv48x4 then 52 else if c.sv39x4 then 43 else if c.sv32x4 then 36 else 0
  max (c.palen + 2) (max va (if c.misaExt.getLsbD Config.bitH then max gpa (if c.sv32 then 34 else 0) else 0))

/-- A set of addresses holds every valid one (R170, R177), and every sign-extended value of `least` bits. -/
def Config.addrSetWf (c : Config) (least : Nat) : AddrSet → Bool
  | .all => true
  | .bits k => decide (max c.addressBits least ≤ k) && decide (k ≤ 64)

/-- `xtval` reports the word of an illegal or a virtual instruction (R178, R868). -/
def Config.reportsWord (c : Config) : Bool :=
  !c.xtvalZero.getLsbD 2 || (c.misaExt.getLsbD Config.bitH && !c.xtvalZero.getLsbD 22)

/-- The exceptions that may write a non-zero `mtval` (R862). -/
def Config.tvalCodes (c : Config) : Word := if c.misaExt.getLsbD Config.bitH then 0xF0B0FF#64 else 0xB0FF#64

/-- What the platform's exceptions and the width of `mtval` allow: it is read-only zero if no exception sets it
(R176), and never so with the hypervisor extension (R330). Where `xtval` reports instruction words it holds all of `ILEN`
bits (R177, R288). -/
def Config.tvalWf (c : Config) : Bool :=
  (!(c.xtvalZero &&& c.tvalCodes == c.tvalCodes) || c.mtvalReadOnlyZero)
  && (!c.misaExt.getLsbD Config.bitH || !c.mtvalReadOnlyZero)
  && c.addrSetWf 0 c.xepcLegal && c.addrSetWf (if c.reportsWord then c.ilen + 1 else 0) c.xtvalLegal && c.ilen == 32

/-- IALIGN = 32 is possible: C is absent or can be switched off (R107). -/
def Config.canIalign32 (c : Config) : Bool :=
  !c.misaExt.getLsbD Config.bitC || c.misaWritable.getLsbD Config.bitC

/-- SXLEN can be 64, and SXLEN or VSXLEN can be 32 (R118, R332). -/
def Config.canS64 (c : Config) : Bool := c.widest == .x64 && c.sxl != .only .x32
def Config.canS32 (c : Config) : Bool :=
  c.widest == .x32 || c.mxlWritable || c.sxl == .both || c.sxl == .only .x32
def Config.canVs32 (c : Config) : Bool :=
  c.canS32 || (c.misaExt.getLsbD Config.bitH && (c.vsxl == .both || c.vsxl == .only .x32))

/-- Paging is a part of S-mode, each scheme at its width (R310, R576): Sv32 where a register that selects it has 32 bits,
the others, nested, where SXLEN can be 64; Svnapot and Svpbmt depend on Sv39. The hypervisor extension asks for Sv39 where
HSXLEN can be 64, and for Sv32 where it is 32, or becomes 32 with a writable MXLEN, but not where SXL alone can make it so:
R330 says only RV32 and RV64 (DESIGN CHOICE, log 1). -/
def Config.pagingWf (c : Config) : Bool :=
  (!(c.sv32 || c.sv39) || c.misaExt.getLsbD Config.bitS)
  && (!c.sv32 || c.canVs32) && (!c.sv39 || c.canS64) && (!c.sv48 || c.sv39) && (!c.sv57 || c.sv48)
  && (!(c.svnapot || c.svpbmt) || c.sv39)
  && (!c.misaExt.getLsbD Config.bitH
      || ((!c.canS64 || c.sv39) && (!(c.widest == .x32 || c.mxlWritable || c.sxl == .only .x32) || c.sv32)))

/-- An Exception Code field has at least `least` bits, room beside the Interrupt bit, and holds the codes of the platform's
interrupts. -/
def Config.codeWf (c : Config) (p : CausePolicy) (least : Nat) : Bool :=
  let platform := c.mipPlatformMask ||| c.hvipPlatformMask
  decide (least ≤ p.bits) && decide (p.bits ≤ if c.widest == .x64 then 63 else 31)
  && (decide (5 ≤ p.bits) || platform.extractLsb' 16 16 == 0#16)
  && (decide (6 ≤ p.bits) || platform.extractLsb' 32 32 == 0#32)

/-- The cause registers hold what the hart can raise: `mcause` every such code (R173), that of the NMI and that of reset
among them (R905, R961), `scause` the codes 0 to 31 too (R283), `vscause` what `scause` holds (R403): it traps only where
`scause` does. -/
def Config.causeWf (c : Config) : Bool :=
  let has (b : Nat) : Bool := c.misaExt.getLsbD b
  let width : Nat := match c.widest with
    | .x32 => 32
    | .x64 => 64
  c.codeWf c.mcausePolicy (if has Config.bitH then 5 else 4)
  && (!has Config.bitS || c.codeWf c.scausePolicy 5)
  && (!has Config.bitH
      || (c.codeWf c.vscausePolicy c.scausePolicy.bits && (!c.vscausePolicy.traps || c.scausePolicy.traps)))
  && decide (c.nmiCause.toNat < 2 ^ min c.mcausePolicy.bits (if c.mxlWritable then 31 else width - 1))
  && decide (c.resetCause.toNat % 2 ^ (width - 1) < 2 ^ c.mcausePolicy.bits)
  && decide (c.resetCause.toNat < 2 ^ width)

/-- The PMP entries that the platform resets otherwise are writable ones, and what they are reset to is legal (R471, R472,
R476, R963). -/
def Config.pmpResetWf (c : Config) : Bool :=
  c.pmpReset.all fun e =>
    decide (e.1 < c.pmpCount) && !c.pmpReadOnlyZero.getLsbD e.1
    && (e.2.1 &&& 0x60#8 == 0) && !(e.2.1.getLsbD 1 && !e.2.1.getLsbD 0)
    && !(decide (1 ≤ c.pmpG) && e.2.1.extractLsb' 3 2 == 2#2)
    && decide (e.2.2.toNat < 2 ^ min (c.palen - 2) (if c.widest == .x64 then 54 else 32))

/-- The `n` bytes at `a` and the `m` bytes at `b` are apart. -/
def rangesApart (a n b m : Nat) : Bool := decide (a + n ≤ b) || decide (b + m ≤ a)

/-- No two regions share an address. -/
def regionsApart : List PmaRegion → Bool
  | [] => true
  | r :: l => (l.all fun q => rangesApart r.base r.size q.base q.size) && regionsApart l

/-- Each address has one record (R452) and one device register at most (R920, R922), and main memory is idempotent
(R464). -/
def Config.mapWf (c : Config) : Bool :=
  regionsApart c.pma && c.pma.all (fun r => r.kind == .io || (r.idempotentRead && r.idempotentWrite))
  && rangesApart c.mtimeAddr 8 c.mtimecmpAddr 8 && rangesApart c.mtimeAddr 8 c.msipAddr 4
  && rangesApart c.mtimecmpAddr 8 c.msipAddr 4

/-- Misaligned accesses of a width and kind that are judged before translation complete in every region or in none: the
address is not known then (R505, R873). -/
def Config.misalignedWf (c : Config) : Bool :=
  c.misalignedPriority == .last
    || c.pma.all fun r => c.pma.all fun q =>
      r.misalignedRead == q.misalignedRead && r.misalignedWrite == q.misalignedWrite

/-- The configuration is one of those the spec allows: a supported set of modes (R31), no extension whose
state the sources do not hold (R5, R135), paging schemes as R576 and R330 want them, `PALEN`, `PMP_COUNT`, `ASIDLEN`,
`VMIDLEN` and `GEILEN` in range (R8), a PMP grain whose bits `pmpaddr` has (R476: the spec gives no upper bound of G;
DESIGN CHOICE, log 16), aligned reset and NMI vectors (R961), an aligned `mconfigptr` (R182), `misa` bits writable only
where the maximal set has them (R105), `stvec` and `vstvec` whose BASE holds every address, with no more than 4-byte
alignment in Direct mode (R260, R400),
cause registers that hold what the hart raises (R283), FIOM writable where S-mode has paging (R186), one record for each
physical address (R452).
Without bit I the base is RV32E or RV64E (R104), which the hypervisor extension excludes (R330). An `ILEN` above 32 is
refused: the spec defines no longer instruction (log 26). -/
def Config.wf (c : Config) : Bool :=
  let ext := c.misaExt
  let has (b : Nat) : Bool := ext.getLsbD b
  let allowed : BitVec 26 := 0x0141185#26
  let is64 : Bool := c.widest == .x64
  let paged : Bool := c.sv32 || c.sv39
  (ext &&& ~~~allowed == 0)
  && (!has Config.bitS || has Config.bitU) && (!has Config.bitH || (has Config.bitS && has Config.bitI))
  && (!c.mxlWritable || is64) && (c.misaPresent || (!c.mxlWritable && c.misaWritable == 0))
  && c.pagingWf && c.causeWf && c.misalignedWf && c.pmpResetWf
  && c.mtvec.wf && c.stvec.wf && c.stvec.fixed.isNone && c.stvec.alignDirect == 2 && c.stvec.baseMask == ~~~0
  && c.vstvec.wf && c.vstvec.alignDirect == 2 && c.vstvec.baseMask == ~~~0 && c.endianWf && c.tvalWf
  && decide (c.palen ≤ (if is64 then 56 else 34))
  && (c.pmpCount == 0 || c.pmpCount == 16 || c.pmpCount == 64) && decide (c.pmpG ≤ (if is64 then 54 else 32))
  && decide (c.asidLen ≤ (if is64 then 16 else 9)) && decide (c.vmidLen ≤ (if is64 then 14 else 7))
  && decide (c.geilen ≤ (if is64 then 63 else 31))
  && (c.resetVector &&& (if has Config.bitC then 1 else 3) == 0)
  && (c.nmiVector &&& (if c.canIalign32 then 3 else 1) == 0)
  && (c.mconfigptr &&& (if is64 then 7 else 3) == 0)
  && (c.misaWritable &&& ~~~(allowed &&& ext) == 0)
  && ((c.mFiomWritable && c.sFiomWritable && c.hFiomWritable) || !paged) && c.mapWf

/-! ## Free values: constants without a body, so nothing can be proved of their values -/

/-- How many clock cycles, beyond one, the step with this draw takes (R160, R987). -/
opaque Config.freeCycles : Nat → Nat

/-- A free Boolean choice: the WFI stall and its spurious end (R756), completing within `TW_LIMIT` (R757),
keeping the reservation over xRET (R753), a translation-cache fill (R573). -/
opaque Config.freeBit : Nat → Bool

/-- Which of several permitted translations a step-2 read returns (R570, R572). -/
opaque Config.freeChoice : Nat → Nat

/-- A free register value: the state of a re-enabled extension (R106), the other fields of a Bare `satp`
write (R302), a field whose legal set changed (R49). -/
opaque Config.freeWord : Nat → Word

/-- Which PMP settings a check of this draw at this address uses, while old ones may still be cached (R481, U30). -/
opaque Config.freePmp : Nat → Nat → Nat

/-- `wlrl_f` of `hstatus.VGEIN` (R336, R47): from the value held and the illegal value written. -/
opaque Config.freeVgein : BitVec 6 → BitVec 6 → BitVec 6

/-- How many events counter `n` sees in the step with this draw, for the event selected (R162). -/
opaque Config.freeEvents : Nat → Word → Nat → Nat

end Sys2Proof
end

