-- ==== Sys2Proof/Syntax.lean ====
section
/-! DEFINITION. The instructions: one constructor per row of spec/opcode_table.json, in the table's order
(30_encoding.md R683, R694; 45_base_isa_subset.md R1001 to R1005). Immediates are the sign-extended quantities
of R1001 before sign extension: a branch offset has 13 bits and a jump offset 21, both with bit 0 zero. -/

namespace Sys2Proof

inductive Instr where
  | ecall
  | ebreak
  | sret
  | mret
  | wfi
  | sfenceVma (rs1 rs2 : RegIdx)
  | sinvalVma (rs1 rs2 : RegIdx)
  | sfenceWInval
  | sfenceInvalIr
  | hfenceVvma (rs1 rs2 : RegIdx)
  | hfenceGvma (rs1 rs2 : RegIdx)
  | hinvalVvma (rs1 rs2 : RegIdx)
  | hinvalGvma (rs1 rs2 : RegIdx)
  | hlvB (rd rs1 : RegIdx)
  | hlvBu (rd rs1 : RegIdx)
  | hlvH (rd rs1 : RegIdx)
  | hlvHu (rd rs1 : RegIdx)
  | hlvW (rd rs1 : RegIdx)
  | hlvWu (rd rs1 : RegIdx)
  | hlvD (rd rs1 : RegIdx)
  | hlvxHu (rd rs1 : RegIdx)
  | hlvxWu (rd rs1 : RegIdx)
  | hsvB (rs1 rs2 : RegIdx)
  | hsvH (rs1 rs2 : RegIdx)
  | hsvW (rs1 rs2 : RegIdx)
  | hsvD (rs1 rs2 : RegIdx)
  | csrrw (rd : RegIdx) (csr : BitVec 12) (rs1 : RegIdx)
  | csrrs (rd : RegIdx) (csr : BitVec 12) (rs1 : RegIdx)
  | csrrc (rd : RegIdx) (csr : BitVec 12) (rs1 : RegIdx)
  | csrrwi (rd : RegIdx) (csr : BitVec 12) (uimm : BitVec 5)
  | csrrsi (rd : RegIdx) (csr : BitVec 12) (uimm : BitVec 5)
  | csrrci (rd : RegIdx) (csr : BitVec 12) (uimm : BitVec 5)
  | lui (rd : RegIdx) (imm : BitVec 20)
  | auipc (rd : RegIdx) (imm : BitVec 20)
  | jal (rd : RegIdx) (off : BitVec 21)
  | jalr (rd rs1 : RegIdx) (imm : BitVec 12)
  | beq (rs1 rs2 : RegIdx) (off : BitVec 13)
  | bne (rs1 rs2 : RegIdx) (off : BitVec 13)
  | blt (rs1 rs2 : RegIdx) (off : BitVec 13)
  | bge (rs1 rs2 : RegIdx) (off : BitVec 13)
  | bltu (rs1 rs2 : RegIdx) (off : BitVec 13)
  | bgeu (rs1 rs2 : RegIdx) (off : BitVec 13)
  | lb (rd rs1 : RegIdx) (imm : BitVec 12)
  | lh (rd rs1 : RegIdx) (imm : BitVec 12)
  | lw (rd rs1 : RegIdx) (imm : BitVec 12)
  | ld (rd rs1 : RegIdx) (imm : BitVec 12)
  | lbu (rd rs1 : RegIdx) (imm : BitVec 12)
  | lhu (rd rs1 : RegIdx) (imm : BitVec 12)
  | lwu (rd rs1 : RegIdx) (imm : BitVec 12)
  | sb (rs1 rs2 : RegIdx) (imm : BitVec 12)
  | sh (rs1 rs2 : RegIdx) (imm : BitVec 12)
  | sw (rs1 rs2 : RegIdx) (imm : BitVec 12)
  | sd (rs1 rs2 : RegIdx) (imm : BitVec 12)
  | addi (rd rs1 : RegIdx) (imm : BitVec 12)
  | slti (rd rs1 : RegIdx) (imm : BitVec 12)
  | sltiu (rd rs1 : RegIdx) (imm : BitVec 12)
  | xori (rd rs1 : RegIdx) (imm : BitVec 12)
  | ori (rd rs1 : RegIdx) (imm : BitVec 12)
  | andi (rd rs1 : RegIdx) (imm : BitVec 12)
  | slli (rd rs1 : RegIdx) (shamt : BitVec 6)
  | srli (rd rs1 : RegIdx) (shamt : BitVec 6)
  | srai (rd rs1 : RegIdx) (shamt : BitVec 6)
  | add (rd rs1 rs2 : RegIdx)
  | sub (rd rs1 rs2 : RegIdx)
  | sll (rd rs1 rs2 : RegIdx)
  | slt (rd rs1 rs2 : RegIdx)
  | sltu (rd rs1 rs2 : RegIdx)
  | xor (rd rs1 rs2 : RegIdx)
  | srl (rd rs1 rs2 : RegIdx)
  | sra (rd rs1 rs2 : RegIdx)
  | or (rd rs1 rs2 : RegIdx)
  | and (rd rs1 rs2 : RegIdx)
  | addiw (rd rs1 : RegIdx) (imm : BitVec 12)
  | addw (rd rs1 rs2 : RegIdx)
  | subw (rd rs1 rs2 : RegIdx)
  | fence (fm pred succ : BitVec 4) (rs1 rd : RegIdx)
  | fenceI (imm : BitVec 12) (rs1 rd : RegIdx)
deriving DecidableEq, Repr

end Sys2Proof
end

