-- ==== Sys2Proof/WellFormed.lean ====
section
/-! DEFINITION. Which instruction terms have an encoding: a branch or jump offset has bit 0 zero, because the
B and J formats hold no bit 0 (45_base_isa_subset.md R1001). Every other field is exactly as wide as its
encoding. -/

namespace Sys2Proof

def Instr.WellFormed : Instr → Bool
  | .jal _ off => !off.getLsbD 0
  | .beq _ _ off | .bne _ _ off | .blt _ _ off | .bge _ _ off | .bltu _ _ off | .bgeu _ _ off =>
    !off.getLsbD 0
  | _ => true

end Sys2Proof
end

