-- ==== Sys2Proof/Decode.lean ====
section
/-! DEFINITION. The decoder, total on any bytes, and the encoder (30_encoding.md R680 to R688, R694;
45_base_isa_subset.md R1001 to R1005). Fields are extracted here and nowhere else. -/

namespace Sys2Proof

/-! ## Fields of R681 and R1001 -/

def opcodeOf (w : BitVec 32) : BitVec 7 := w.extractLsb' 0 7
def rdOf (w : BitVec 32) : RegIdx := w.extractLsb' 7 5
def funct3Of (w : BitVec 32) : BitVec 3 := w.extractLsb' 12 3
def rs1Of (w : BitVec 32) : RegIdx := w.extractLsb' 15 5
def rs2Of (w : BitVec 32) : RegIdx := w.extractLsb' 20 5
def funct7Of (w : BitVec 32) : BitVec 7 := w.extractLsb' 25 7

/-- I-type `imm[11:0]`, also `funct12` and the CSR address (R681). -/
def immIOf (w : BitVec 32) : BitVec 12 := funct7Of w ++ rs2Of w

/-- S-type immediate (R1001). -/
def immSOf (w : BitVec 32) : BitVec 12 := funct7Of w ++ rdOf w

/-- B-type: `imm[12|10:5] = inst[31|30:25]`, `imm[4:1|11] = inst[11:8|7]`, `imm[0] = 0` (R1001). -/
def immBOf (w : BitVec 32) : BitVec 13 :=
  (funct7Of w).extractLsb' 6 1 ++ (rdOf w).extractLsb' 0 1 ++ (funct7Of w).extractLsb' 0 6
    ++ (rdOf w).extractLsb' 1 4 ++ 0#1

/-- U-type `imm[31:12]` (R1001). -/
def immUOf (w : BitVec 32) : BitVec 20 := funct7Of w ++ rs2Of w ++ rs1Of w ++ funct3Of w

/-- J-type: `imm[20|10:1|11|19:12] = inst[31|30:21|20|19:12]`, `imm[0] = 0` (R1001). -/
def immJOf (w : BitVec 32) : BitVec 21 :=
  (funct7Of w).extractLsb' 6 1 ++ rs1Of w ++ funct3Of w ++ (rs2Of w).extractLsb' 0 1
    ++ (funct7Of w).extractLsb' 0 6 ++ (rs2Of w).extractLsb' 1 4 ++ 0#1

/-- The 6-bit shift amount of SLLI, SRLI and SRAI (the opcode table's bits 25:20). -/
def shamtOf (w : BitVec 32) : BitVec 6 := (immIOf w).extractLsb' 0 6
def funct6Of (w : BitVec 32) : BitVec 6 := (immIOf w).extractLsb' 6 6

/-! ## Outcomes of decoding -/

/-- The Volume I extensions whose words the spec names but does not supply (R1007). -/
inductive VolumeOne where
  /-- Multiply and divide words. -/
  | m
  /-- LR, SC and AMO words. -/
  | a
  /-- 16-bit words other than C.EBREAK. -/
  | c
  /-- SLLIW, SRLIW, SRAIW, SLLW, SRLW, SRAW. -/
  | wShift
deriving DecidableEq, Repr

/-- Why a word is rejected. -/
inductive Reject where
  /-- No rule defines the word (R687): an illegal instruction. -/
  | reserved
  /-- The word belongs to a Volume I extension the spec does not supply (R1007). -/
  | volumeOne (e : VolumeOne)
  /-- Fewer bytes than the instruction needs. -/
  | truncated
deriving DecidableEq, Repr

/-- The result of decoding: an instruction and its length in bytes, or a named rejection. -/
inductive Decoded where
  | instr (i : Instr) (length : Nat)
  | rejected (r : Reject)
deriving DecidableEq, Repr

/-! ## The decoder, opcode by opcode -/

/-- SYSTEM / PRIV rows with `rd` = 0 (R683, R694). -/
def decodePriv (w : BitVec 32) : Option Instr :=
  if rdOf w ≠ 0 then none
  else if funct7Of w = 0b0001001#7 then some (.sfenceVma (rs1Of w) (rs2Of w))
  else if funct7Of w = 0b0001011#7 then some (.sinvalVma (rs1Of w) (rs2Of w))
  else if funct7Of w = 0b0010001#7 then some (.hfenceVvma (rs1Of w) (rs2Of w))
  else if funct7Of w = 0b0110001#7 then some (.hfenceGvma (rs1Of w) (rs2Of w))
  else if funct7Of w = 0b0010011#7 then some (.hinvalVvma (rs1Of w) (rs2Of w))
  else if funct7Of w = 0b0110011#7 then some (.hinvalGvma (rs1Of w) (rs2Of w))
  else if rs1Of w ≠ 0 then none
  else if funct7Of w = 0b0000000#7 then
    (if rs2Of w = 0 then some .ecall else if rs2Of w = 1 then some .ebreak else none)
  else if funct7Of w = 0b0001000#7 then
    (if rs2Of w = 2 then some .sret else if rs2Of w = 5 then some .wfi else none)
  else if funct7Of w = 0b0011000#7 then
    (if rs2Of w = 2 then some .mret else none)
  else if funct7Of w = 0b0001100#7 then
    (if rs2Of w = 0 then some .sfenceWInval else if rs2Of w = 1 then some .sfenceInvalIr else none)
  else none

/-- SYSTEM / PRIVM rows: HLV, HLVX (rs2 selects) and HSV (`rd` = 0) (R683). -/
def decodePrivM (w : BitVec 32) : Option Instr :=
  if funct7Of w = 0b0110000#7 then
    (if rs2Of w = 0 then some (.hlvB (rdOf w) (rs1Of w))
     else if rs2Of w = 1 then some (.hlvBu (rdOf w) (rs1Of w)) else none)
  else if funct7Of w = 0b0110010#7 then
    (if rs2Of w = 0 then some (.hlvH (rdOf w) (rs1Of w))
     else if rs2Of w = 1 then some (.hlvHu (rdOf w) (rs1Of w))
     else if rs2Of w = 3 then some (.hlvxHu (rdOf w) (rs1Of w)) else none)
  else if funct7Of w = 0b0110100#7 then
    (if rs2Of w = 0 then some (.hlvW (rdOf w) (rs1Of w))
     else if rs2Of w = 1 then some (.hlvWu (rdOf w) (rs1Of w))
     else if rs2Of w = 3 then some (.hlvxWu (rdOf w) (rs1Of w)) else none)
  else if funct7Of w = 0b0110110#7 then
    (if rs2Of w = 0 then some (.hlvD (rdOf w) (rs1Of w)) else none)
  else if rdOf w ≠ 0 then none
  else if funct7Of w = 0b0110001#7 then some (.hsvB (rs1Of w) (rs2Of w))
  else if funct7Of w = 0b0110011#7 then some (.hsvH (rs1Of w) (rs2Of w))
  else if funct7Of w = 0b0110101#7 then some (.hsvW (rs1Of w) (rs2Of w))
  else if funct7Of w = 0b0110111#7 then some (.hsvD (rs1Of w) (rs2Of w))
  else none

/-- Opcode SYSTEM by funct3 (R682). -/
def decodeSystem (w : BitVec 32) : Option Instr :=
  if funct3Of w = 0 then decodePriv w
  else if funct3Of w = 1 then some (.csrrw (rdOf w) (immIOf w) (rs1Of w))
  else if funct3Of w = 2 then some (.csrrs (rdOf w) (immIOf w) (rs1Of w))
  else if funct3Of w = 3 then some (.csrrc (rdOf w) (immIOf w) (rs1Of w))
  else if funct3Of w = 4 then decodePrivM w
  else if funct3Of w = 5 then some (.csrrwi (rdOf w) (immIOf w) (rs1Of w))
  else if funct3Of w = 6 then some (.csrrsi (rdOf w) (immIOf w) (rs1Of w))
  else some (.csrrci (rdOf w) (immIOf w) (rs1Of w))

/-- Branches (R1002). -/
def decodeBranch (w : BitVec 32) : Option Instr :=
  if funct3Of w = 0 then some (.beq (rs1Of w) (rs2Of w) (immBOf w))
  else if funct3Of w = 1 then some (.bne (rs1Of w) (rs2Of w) (immBOf w))
  else if funct3Of w = 4 then some (.blt (rs1Of w) (rs2Of w) (immBOf w))
  else if funct3Of w = 5 then some (.bge (rs1Of w) (rs2Of w) (immBOf w))
  else if funct3Of w = 6 then some (.bltu (rs1Of w) (rs2Of w) (immBOf w))
  else if funct3Of w = 7 then some (.bgeu (rs1Of w) (rs2Of w) (immBOf w))
  else none

/-- Loads (R1003). -/
def decodeLoad (w : BitVec 32) : Option Instr :=
  if funct3Of w = 0 then some (.lb (rdOf w) (rs1Of w) (immIOf w))
  else if funct3Of w = 1 then some (.lh (rdOf w) (rs1Of w) (immIOf w))
  else if funct3Of w = 2 then some (.lw (rdOf w) (rs1Of w) (immIOf w))
  else if funct3Of w = 3 then some (.ld (rdOf w) (rs1Of w) (immIOf w))
  else if funct3Of w = 4 then some (.lbu (rdOf w) (rs1Of w) (immIOf w))
  else if funct3Of w = 5 then some (.lhu (rdOf w) (rs1Of w) (immIOf w))
  else if funct3Of w = 6 then some (.lwu (rdOf w) (rs1Of w) (immIOf w))
  else none

/-- Stores (R1003). -/
def decodeStore (w : BitVec 32) : Option Instr :=
  if funct3Of w = 0 then some (.sb (rs1Of w) (rs2Of w) (immSOf w))
  else if funct3Of w = 1 then some (.sh (rs1Of w) (rs2Of w) (immSOf w))
  else if funct3Of w = 2 then some (.sw (rs1Of w) (rs2Of w) (immSOf w))
  else if funct3Of w = 3 then some (.sd (rs1Of w) (rs2Of w) (immSOf w))
  else none

/-- Register-immediate computation (R1004). -/
def decodeOpImm (w : BitVec 32) : Option Instr :=
  if funct3Of w = 0 then some (.addi (rdOf w) (rs1Of w) (immIOf w))
  else if funct3Of w = 1 then
    (if funct6Of w = 0 then some (.slli (rdOf w) (rs1Of w) (shamtOf w)) else none)
  else if funct3Of w = 2 then some (.slti (rdOf w) (rs1Of w) (immIOf w))
  else if funct3Of w = 3 then some (.sltiu (rdOf w) (rs1Of w) (immIOf w))
  else if funct3Of w = 4 then some (.xori (rdOf w) (rs1Of w) (immIOf w))
  else if funct3Of w = 5 then
    (if funct6Of w = 0 then some (.srli (rdOf w) (rs1Of w) (shamtOf w))
     else if funct6Of w = 0b010000#6 then some (.srai (rdOf w) (rs1Of w) (shamtOf w)) else none)
  else if funct3Of w = 6 then some (.ori (rdOf w) (rs1Of w) (immIOf w))
  else some (.andi (rdOf w) (rs1Of w) (immIOf w))

/-- Register-register computation (R1004). -/
def decodeOp (w : BitVec 32) : Option Instr :=
  if funct7Of w = 0 then
    (if funct3Of w = 0 then some (.add (rdOf w) (rs1Of w) (rs2Of w))
     else if funct3Of w = 1 then some (.sll (rdOf w) (rs1Of w) (rs2Of w))
     else if funct3Of w = 2 then some (.slt (rdOf w) (rs1Of w) (rs2Of w))
     else if funct3Of w = 3 then some (.sltu (rdOf w) (rs1Of w) (rs2Of w))
     else if funct3Of w = 4 then some (.xor (rdOf w) (rs1Of w) (rs2Of w))
     else if funct3Of w = 5 then some (.srl (rdOf w) (rs1Of w) (rs2Of w))
     else if funct3Of w = 6 then some (.or (rdOf w) (rs1Of w) (rs2Of w))
     else some (.and (rdOf w) (rs1Of w) (rs2Of w)))
  else if funct7Of w = 0b0100000#7 then
    (if funct3Of w = 0 then some (.sub (rdOf w) (rs1Of w) (rs2Of w))
     else if funct3Of w = 5 then some (.sra (rdOf w) (rs1Of w) (rs2Of w)) else none)
  else none

/-- 32-bit computation on RV64 (R1004). -/
def decodeOpW (w : BitVec 32) : Option Instr :=
  if funct3Of w = 0 then
    (if funct7Of w = 0 then some (.addw (rdOf w) (rs1Of w) (rs2Of w))
     else if funct7Of w = 0b0100000#7 then some (.subw (rdOf w) (rs1Of w) (rs2Of w)) else none)
  else none

/-- FENCE and FENCE.I (R1005); the fields beside the opcode and funct3 are free. -/
def decodeMiscMem (w : BitVec 32) : Option Instr :=
  if funct3Of w = 0 then
    some (.fence ((immIOf w).extractLsb' 8 4) ((immIOf w).extractLsb' 4 4) ((immIOf w).extractLsb' 0 4)
      (rs1Of w) (rdOf w))
  else if funct3Of w = 1 then some (.fenceI (immIOf w) (rs1Of w) (rdOf w))
  else none

/-- The instruction a 32-bit word is, if any rule of the spec defines it (R684: the rows are disjoint). -/
def decodeWord (w : BitVec 32) : Option Instr :=
  if opcodeOf w = 0b1110011#7 then decodeSystem w
  else if opcodeOf w = 0b0110111#7 then some (.lui (rdOf w) (immUOf w))
  else if opcodeOf w = 0b0010111#7 then some (.auipc (rdOf w) (immUOf w))
  else if opcodeOf w = 0b1101111#7 then some (.jal (rdOf w) (immJOf w))
  else if opcodeOf w = 0b1100111#7 then
    (if funct3Of w = 0 then some (.jalr (rdOf w) (rs1Of w) (immIOf w)) else none)
  else if opcodeOf w = 0b1100011#7 then decodeBranch w
  else if opcodeOf w = 0b0000011#7 then decodeLoad w
  else if opcodeOf w = 0b0100011#7 then decodeStore w
  else if opcodeOf w = 0b0010011#7 then decodeOpImm w
  else if opcodeOf w = 0b0110011#7 then decodeOp w
  else if opcodeOf w = 0b0011011#7 then
    (if funct3Of w = 0 then some (.addiw (rdOf w) (rs1Of w) (immIOf w)) else none)
  else if opcodeOf w = 0b0111011#7 then decodeOpW w
  else if opcodeOf w = 0b0001111#7 then decodeMiscMem w
  else none

/-- `funct5` of the atomic instructions: AMOADD, AMOSWAP, SC, AMOXOR, AMOOR, AMOAND, AMOMIN, AMOMAX, AMOMINU,
AMOMAXU. -/
def atomicFunct5 : List (BitVec 5) :=
  [0b00000#5, 0b00001#5, 0b00011#5, 0b00100#5, 0b01000#5, 0b01100#5, 0b10000#5, 0b10100#5, 0b11000#5, 0b11100#5]

/-- An instruction of the A extension: width W or D, and for LR (00010) `rs2` = 0 (PRESUMED, log 17). -/
def isAtomic (w : BitVec 32) : Bool :=
  opcodeOf w == 0b0101111#7 && (funct3Of w == 2 || funct3Of w == 3)
    && (atomicFunct5.contains (w.extractLsb' 27 5) || (w.extractLsb' 27 5 == 0b00010#5 && rs2Of w == 0))

/-- The Volume I extension an undefined 32-bit word belongs to (R1007; the encodings are PRESUMED, log 17). -/
def volumeOneOf (w : BitVec 32) : Option VolumeOne :=
  if opcodeOf w = 0b0110011#7 ∧ funct7Of w = 1 then some .m
  else if opcodeOf w = 0b0111011#7 ∧ funct7Of w = 1 ∧ (funct3Of w = 0 ∨ 4 ≤ (funct3Of w).toNat) then some .m
  else if isAtomic w then some .a
  else if opcodeOf w = 0b0011011#7 ∧ (funct3Of w = 1 ∨ funct3Of w = 5)
      ∧ (funct7Of w = 0 ∨ (funct3Of w = 5 ∧ funct7Of w = 0b0100000#7)) then some .wShift
  else if opcodeOf w = 0b0111011#7 ∧ (funct3Of w = 1 ∨ funct3Of w = 5)
      ∧ (funct7Of w = 0 ∨ (funct3Of w = 5 ∧ funct7Of w = 0b0100000#7)) then some .wShift
  else none

/-- Decode a 32-bit word, naming the rejection. -/
def decode32 (w : BitVec 32) : Decoded :=
  match decodeWord w with
  | some i => .instr i 4
  | none =>
    match volumeOneOf w with
    | some e => .rejected (.volumeOne e)
    | none => .rejected .reserved

/-- The word C.EBREAK (R694). -/
def cEbreakWord : BitVec 16 := 0x9002#16

/-- Fields of a 16-bit word: `funct3`, the 5-bit register fields, bit 12. -/
def rvcFunct3 (h : BitVec 16) : Nat := (h.extractLsb' 13 3).toNat
def rvcRd (h : BitVec 16) : RegIdx := h.extractLsb' 7 5
def rvcRs2 (h : BitVec 16) : RegIdx := h.extractLsb' 2 5
def rvcBit12 (h : BitVec 16) : Bool := h.getLsbD 12

/-- Quadrant 0 of the C extension, without F and D: ADDI4SPN, LW, SW, and LD and SD on RV64 (PRESUMED, log 18). -/
def rvcQuadrant0 (rv64 : Bool) (h : BitVec 16) : Bool :=
  match rvcFunct3 h with
  | 0 => h.extractLsb' 5 8 != 0
  | 2 | 6 => true
  | 3 | 7 => rv64
  | _ => false

/-- Quadrant 1: ADDI, JAL or ADDIW, LI, ADDI16SP and LUI, the arithmetic group, J, BEQZ, BNEZ (PRESUMED, log 18). -/
def rvcQuadrant1 (rv64 : Bool) (h : BitVec 16) : Bool :=
  match rvcFunct3 h with
  | 1 => !rv64 || rvcRd h != 0
  | 3 => rvcBit12 h || rvcRs2 h != 0
  | 4 =>
    match (h.extractLsb' 10 2).toNat with
    | 0 | 1 => rv64 || !rvcBit12 h
    | 2 => true
    | _ => !rvcBit12 h || (rv64 && !h.getLsbD 6)
  | _ => true

/-- Quadrant 2: SLLI, LWSP, LDSP, JR, MV, EBREAK, JALR, ADD, SWSP, SDSP (PRESUMED, log 18). -/
def rvcQuadrant2 (rv64 : Bool) (h : BitVec 16) : Bool :=
  match rvcFunct3 h with
  | 0 => rv64 || !rvcBit12 h
  | 2 => rvcRd h != 0
  | 3 => rv64 && rvcRd h != 0
  | 4 => rvcBit12 h || rvcRs2 h != 0 || rvcRd h != 0
  | 6 => true
  | 7 => rv64
  | _ => false

/-- The C extension without F and D defines the 16-bit word. -/
def rvcDefined (rv64 : Bool) (h : BitVec 16) : Bool :=
  match (h.extractLsb' 0 2).toNat with
  | 0 => rvcQuadrant0 rv64 h
  | 1 => rvcQuadrant1 rv64 h
  | 2 => rvcQuadrant2 rv64 h
  | _ => false

/-- Decode a 16-bit word: C.EBREAK is EBREAK (R751); C supplies nothing else here (R1007). -/
def decode16 (h : BitVec 16) : Decoded :=
  if h = cEbreakWord then .instr .ebreak 2
  else if rvcDefined false h || rvcDefined true h then .rejected (.volumeOne .c)
  else .rejected .reserved

/-- The integer registers a word of a Volume I extension names by 5-bit fields. -/
def volumeOneRegs (rv64 : Bool) (w : BitVec 32) : VolumeOne → List RegIdx
  | .m => [rdOf w, rs1Of w, rs2Of w]
  | .a => [rdOf w, rs1Of w, rs2Of w]
  | .wShift => if opcodeOf w = 0b0011011#7 then [rdOf w, rs1Of w] else [rdOf w, rs1Of w, rs2Of w]
  | .c =>
    let h : BitVec 16 := w.setWidth 16
    match (h.extractLsb' 0 2).toNat, rvcFunct3 h with
    | 1, 0 | 1, 2 | 1, 3 | 2, 0 | 2, 2 | 2, 3 => [rvcRd h]
    | 1, 1 => if rv64 then [rvcRd h] else []
    | 2, 4 => [rvcRd h, rvcRs2 h]
    | 2, 6 | 2, 7 => [rvcRs2 h]
    | _, _ => []

/-- A word whose low two bits are not 11 is 16 bits long (R680). -/
def isCompressed (h : BitVec 16) : Bool := h.extractLsb' 0 2 != 0b11#2

/-- The first two and the next two bytes, little-endian (R680). -/
def halfOfBytes (b0 b1 : Byte) : BitVec 16 := b1 ++ b0
def wordOfBytes (b0 b1 b2 b3 : Byte) : BitVec 32 := b3 ++ b2 ++ b1 ++ b0

/-- The decoder on bytes in address order. -/
def decodeBytes : List Byte → Decoded
  | b0 :: b1 :: rest =>
    if isCompressed (halfOfBytes b0 b1) then decode16 (halfOfBytes b0 b1)
    else
      match rest with
      | b2 :: b3 :: _ => decode32 (wordOfBytes b0 b1 b2 b3)
      | _ => .rejected .truncated
  | _ => .rejected .truncated

/-- The four bytes of a word, lowest address first (R680). -/
def bytesOfWord (w : BitVec 32) : List Byte :=
  [w.extractLsb' 0 8, w.extractLsb' 8 8, w.extractLsb' 16 8, w.extractLsb' 24 8]

/-- What the decoder reads from the table's bits `w` of an instruction of `nbits` bits. -/
def decodeTableWord (nbits w : Nat) : Option Instr :=
  match decodeBytes (bytesOfWord (BitVec.ofNat 32 (w % 2 ^ nbits))) with
  | .instr i _ => some i
  | .rejected _ => none

/-! ## The encoder -/

/-- The fields of R681 put together. -/
def encR (funct7 : BitVec 7) (rs2 rs1 : RegIdx) (funct3 : BitVec 3) (rd : RegIdx) (opcode : BitVec 7) :
    BitVec 32 :=
  funct7 ++ rs2 ++ rs1 ++ funct3 ++ rd ++ opcode

def encI (imm : BitVec 12) (rs1 : RegIdx) (funct3 : BitVec 3) (rd : RegIdx) (opcode : BitVec 7) : BitVec 32 :=
  encR (imm.extractLsb' 5 7) (imm.extractLsb' 0 5) rs1 funct3 rd opcode

def encS (imm : BitVec 12) (rs1 rs2 : RegIdx) (funct3 : BitVec 3) : BitVec 32 :=
  encR (imm.extractLsb' 5 7) rs2 rs1 funct3 (imm.extractLsb' 0 5) 0b0100011#7

def encB (off : BitVec 13) (rs1 rs2 : RegIdx) (funct3 : BitVec 3) : BitVec 32 :=
  encR (off.extractLsb' 12 1 ++ off.extractLsb' 5 6) rs2 rs1 funct3
    (off.extractLsb' 1 4 ++ off.extractLsb' 11 1) 0b1100011#7

def encU (imm : BitVec 20) (rd : RegIdx) (opcode : BitVec 7) : BitVec 32 :=
  encR (imm.extractLsb' 13 7) (imm.extractLsb' 8 5) (imm.extractLsb' 3 5) (imm.extractLsb' 0 3) rd opcode

def encJ (off : BitVec 21) (rd : RegIdx) : BitVec 32 :=
  encR (off.extractLsb' 20 1 ++ off.extractLsb' 5 6) (off.extractLsb' 1 4 ++ off.extractLsb' 11 1)
    (off.extractLsb' 15 5) (off.extractLsb' 12 3) rd 0b1101111#7

/-- A SYSTEM / PRIV word with `rd` = 0 (R683). -/
def encPriv (funct7 : BitVec 7) (rs2 rs1 : RegIdx) : BitVec 32 := encR funct7 rs2 rs1 0 0 0b1110011#7

/-- A SYSTEM / PRIVM word (R683). -/
def encPrivM (funct7 : BitVec 7) (rs2 rs1 rd : RegIdx) : BitVec 32 := encR funct7 rs2 rs1 4 rd 0b1110011#7

/-- The 32-bit word of an instruction (R683, R694, R1001 to R1005). -/
def encode : Instr → BitVec 32
  | .ecall => encPriv 0b0000000#7 0 0
  | .ebreak => encPriv 0b0000000#7 1 0
  | .sret => encPriv 0b0001000#7 2 0
  | .mret => encPriv 0b0011000#7 2 0
  | .wfi => encPriv 0b0001000#7 5 0
  | .sfenceVma rs1 rs2 => encPriv 0b0001001#7 rs2 rs1
  | .sinvalVma rs1 rs2 => encPriv 0b0001011#7 rs2 rs1
  | .sfenceWInval => encPriv 0b0001100#7 0 0
  | .sfenceInvalIr => encPriv 0b0001100#7 1 0
  | .hfenceVvma rs1 rs2 => encPriv 0b0010001#7 rs2 rs1
  | .hfenceGvma rs1 rs2 => encPriv 0b0110001#7 rs2 rs1
  | .hinvalVvma rs1 rs2 => encPriv 0b0010011#7 rs2 rs1
  | .hinvalGvma rs1 rs2 => encPriv 0b0110011#7 rs2 rs1
  | .hlvB rd rs1 => encPrivM 0b0110000#7 0 rs1 rd
  | .hlvBu rd rs1 => encPrivM 0b0110000#7 1 rs1 rd
  | .hlvH rd rs1 => encPrivM 0b0110010#7 0 rs1 rd
  | .hlvHu rd rs1 => encPrivM 0b0110010#7 1 rs1 rd
  | .hlvW rd rs1 => encPrivM 0b0110100#7 0 rs1 rd
  | .hlvWu rd rs1 => encPrivM 0b0110100#7 1 rs1 rd
  | .hlvD rd rs1 => encPrivM 0b0110110#7 0 rs1 rd
  | .hlvxHu rd rs1 => encPrivM 0b0110010#7 3 rs1 rd
  | .hlvxWu rd rs1 => encPrivM 0b0110100#7 3 rs1 rd
  | .hsvB rs1 rs2 => encPrivM 0b0110001#7 rs2 rs1 0
  | .hsvH rs1 rs2 => encPrivM 0b0110011#7 rs2 rs1 0
  | .hsvW rs1 rs2 => encPrivM 0b0110101#7 rs2 rs1 0
  | .hsvD rs1 rs2 => encPrivM 0b0110111#7 rs2 rs1 0
  | .csrrw rd csr rs1 => encI csr rs1 1 rd 0b1110011#7
  | .csrrs rd csr rs1 => encI csr rs1 2 rd 0b1110011#7
  | .csrrc rd csr rs1 => encI csr rs1 3 rd 0b1110011#7
  | .csrrwi rd csr uimm => encI csr uimm 5 rd 0b1110011#7
  | .csrrsi rd csr uimm => encI csr uimm 6 rd 0b1110011#7
  | .csrrci rd csr uimm => encI csr uimm 7 rd 0b1110011#7
  | .lui rd imm => encU imm rd 0b0110111#7
  | .auipc rd imm => encU imm rd 0b0010111#7
  | .jal rd off => encJ off rd
  | .jalr rd rs1 imm => encI imm rs1 0 rd 0b1100111#7
  | .beq rs1 rs2 off => encB off rs1 rs2 0
  | .bne rs1 rs2 off => encB off rs1 rs2 1
  | .blt rs1 rs2 off => encB off rs1 rs2 4
  | .bge rs1 rs2 off => encB off rs1 rs2 5
  | .bltu rs1 rs2 off => encB off rs1 rs2 6
  | .bgeu rs1 rs2 off => encB off rs1 rs2 7
  | .lb rd rs1 imm => encI imm rs1 0 rd 0b0000011#7
  | .lh rd rs1 imm => encI imm rs1 1 rd 0b0000011#7
  | .lw rd rs1 imm => encI imm rs1 2 rd 0b0000011#7
  | .ld rd rs1 imm => encI imm rs1 3 rd 0b0000011#7
  | .lbu rd rs1 imm => encI imm rs1 4 rd 0b0000011#7
  | .lhu rd rs1 imm => encI imm rs1 5 rd 0b0000011#7
  | .lwu rd rs1 imm => encI imm rs1 6 rd 0b0000011#7
  | .sb rs1 rs2 imm => encS imm rs1 rs2 0
  | .sh rs1 rs2 imm => encS imm rs1 rs2 1
  | .sw rs1 rs2 imm => encS imm rs1 rs2 2
  | .sd rs1 rs2 imm => encS imm rs1 rs2 3
  | .addi rd rs1 imm => encI imm rs1 0 rd 0b0010011#7
  | .slti rd rs1 imm => encI imm rs1 2 rd 0b0010011#7
  | .sltiu rd rs1 imm => encI imm rs1 3 rd 0b0010011#7
  | .xori rd rs1 imm => encI imm rs1 4 rd 0b0010011#7
  | .ori rd rs1 imm => encI imm rs1 6 rd 0b0010011#7
  | .andi rd rs1 imm => encI imm rs1 7 rd 0b0010011#7
  | .slli rd rs1 shamt => encI (0b000000#6 ++ shamt) rs1 1 rd 0b0010011#7
  | .srli rd rs1 shamt => encI (0b000000#6 ++ shamt) rs1 5 rd 0b0010011#7
  | .srai rd rs1 shamt => encI (0b010000#6 ++ shamt) rs1 5 rd 0b0010011#7
  | .add rd rs1 rs2 => encR 0 rs2 rs1 0 rd 0b0110011#7
  | .sub rd rs1 rs2 => encR 0b0100000#7 rs2 rs1 0 rd 0b0110011#7
  | .sll rd rs1 rs2 => encR 0 rs2 rs1 1 rd 0b0110011#7
  | .slt rd rs1 rs2 => encR 0 rs2 rs1 2 rd 0b0110011#7
  | .sltu rd rs1 rs2 => encR 0 rs2 rs1 3 rd 0b0110011#7
  | .xor rd rs1 rs2 => encR 0 rs2 rs1 4 rd 0b0110011#7
  | .srl rd rs1 rs2 => encR 0 rs2 rs1 5 rd 0b0110011#7
  | .sra rd rs1 rs2 => encR 0b0100000#7 rs2 rs1 5 rd 0b0110011#7
  | .or rd rs1 rs2 => encR 0 rs2 rs1 6 rd 0b0110011#7
  | .and rd rs1 rs2 => encR 0 rs2 rs1 7 rd 0b0110011#7
  | .addiw rd rs1 imm => encI imm rs1 0 rd 0b0011011#7
  | .addw rd rs1 rs2 => encR 0 rs2 rs1 0 rd 0b0111011#7
  | .subw rd rs1 rs2 => encR 0b0100000#7 rs2 rs1 0 rd 0b0111011#7
  | .fence fm pred succ rs1 rd => encI (fm ++ pred ++ succ) rs1 0 rd 0b0001111#7
  | .fenceI imm rs1 rd => encI imm rs1 1 rd 0b0001111#7

end Sys2Proof
end

