-- ==== Sys2Proof/Machine/State.lean ====
section
/-! DEFINITION. The machine's state as plain data (10_state.md, 11_state_machine_csrs.md,
12_state_supervisor_csrs.md, 13_state_hypervisor_csrs.md), its reset value (70_reset_and_hazards.md R960 to
R962), and the reasons a step can stop. A CSR is held in a 64-bit container; the accessors in the CSR files
show it at the width in effect. Registers that the spec makes views of others (R250, R265, R348, R396) have
no storage here. -/

namespace Sys2Proof.Machine

open Sys2Proof

/-- The fields of `mstatus`/`mstatush` (R113 to R135, R410). XS and SD are views. -/
structure MStatus where
  sie : Bool
  mie : Bool
  spie : Bool
  mpie : Bool
  ube : Bool
  sbe : Bool
  mbe : Bool
  spp : Bool
  mpp : Priv
  vs : BitVec 2
  fs : BitVec 2
  mprv : Bool
  sum : Bool
  mxr : Bool
  tvm : Bool
  tw : Bool
  tsr : Bool
  mpv : Bool
  gva : Bool
  uxl : Xlen
  sxl : Xlen
deriving DecidableEq, Repr

/-- The fields of `hstatus` (R331 to R341). -/
structure HStatus where
  vsbe : Bool
  gva : Bool
  spv : Bool
  spvp : Bool
  hu : Bool
  vgein : BitVec 6
  vtvm : Bool
  vtw : Bool
  vtsr : Bool
  vsxl : Xlen
deriving DecidableEq, Repr

/-- The fields of `vsstatus` (R390 to R394). XS and SD are views. -/
structure VsStatus where
  sie : Bool
  spie : Bool
  ube : Bool
  spp : Bool
  vs : BitVec 2
  fs : BitVec 2
  sum : Bool
  mxr : Bool
  uxl : Xlen
deriving DecidableEq, Repr

/-- The machine-level CSRs with storage of their own (11_state_machine_csrs.md; R413, R414). `ideleg` holds the
writable bits only (R415), `ip` the software-writable bits SEIP (B), STIP, SSIP (R152, R153). -/
structure MCsrs where
  tvec : Word
  edeleg : Word
  ideleg : Word
  ie : Word
  ip : Word
  counteren : BitVec 32
  countinhibit : BitVec 32
  scratch : Word
  epc : Word
  cause : Word
  tval : Word
  tval2 : Word
  tinst : Word
  fiom : Bool
  pbmte : Bool
  cycle : Word
  instret : Word
  hpmcounter : Vector Word 29
  hpmevent : Vector Word 29
deriving DecidableEq, Repr

/-- The supervisor CSRs with storage of their own (12_state_supervisor_csrs.md). -/
structure SCsrs where
  tvec : Word
  counteren : BitVec 32
  fiom : Bool
  scratch : Word
  epc : Word
  cause : Word
  tval : Word
  atp : Word
deriving DecidableEq, Repr

/-- The hypervisor CSRs with storage of their own (13_state_hypervisor_csrs.md). -/
structure HCsrs where
  status : HStatus
  edeleg : Word
  ideleg : Word
  vip : Word
  geie : Word
  fiom : Bool
  pbmte : Bool
  counteren : BitVec 32
  timedelta : Word
  tval : Word
  tinst : Word
  gatp : Word
deriving DecidableEq, Repr

/-- The VS CSRs with storage of their own (R390 to R408). -/
structure VsCsrs where
  status : VsStatus
  tvec : Word
  scratch : Word
  epc : Word
  cause : Word
  tval : Word
  atp : Word
deriving DecidableEq, Repr

/-- The interrupt inputs as last driven (R58): MEIP and the external part of SEIP (R151, R152), the guest
external lines behind `hgeip` (R356), the platform signals to VS-level (R350), platform interrupts 16 and up
(R150). -/
structure Lines where
  meip : Bool
  seip : Bool
  hgeip : Word
  vsei : Bool
  vsti : Bool
  plat : Word
deriving DecidableEq, Repr

/-- A load reservation (R56): the naturally aligned block of the LR's own size (D43). -/
structure Reservation where
  base : Nat
  size : Nat
deriving DecidableEq, Repr

/-- The three kinds of translation-cache entry (R655). -/
inductive TcKind where
  | hs
  | vs
  | g
deriving DecidableEq, Repr

/-- A remembered step-2 read (R570, R655). `shift` and `pre` are the VPN prefix it was made for,
`fenceShift` the size of the range it stands for (larger than `shift` for a NAPOT leaf), `leaf` whether it ends a walk:
a leaf, or an entry with V = 0 or a reserved encoding, and no pointer to a further table. -/
structure TcEntry where
  kind : TcKind
  asid : Nat
  vmid : Nat
  isGlobal : Bool
  pteAddr : Nat
  pteVal : Word
  shift : Nat
  pre : Nat
  leaf : Bool
  fenceShift : Nat
deriving DecidableEq, Repr

/-- The PMP registers as they stood before a write (R481). -/
structure PmpSettings where
  pmpcfg : Vector Byte 64
  pmpaddr : Vector Word 64
deriving DecidableEq, Repr

/-- A speculative translation the environment asks for (R573). -/
structure SpecWalk where
  virt : Bool
  va : Word
deriving DecidableEq, Repr

/-- What the environment does before one step (R30, R58, R60): the lines it drives, how far `mtime`
advances, an NMI (R905), a reset (R964), SSIP set by the platform (R153), the MSIP bit written by another hart or device
(R30, R922), speculative walks (R573). -/
structure EnvEvent where
  lines : Lines
  ticks : Nat
  nmi : Bool
  reset : Bool
  setSsip : Bool
  writeMsip : Option Bool
  specWalks : List SpecWalk
deriving DecidableEq, Repr

structure State where
  cfg : Config
  /-- `x0` to `x31` (R35); entry 0 is never read. -/
  x : Vector Word 32
  pc : Word
  priv : Priv
  virt : Bool
  /-- `misa.MXL` and `misa.Extensions` (R101). -/
  mxl : Xlen
  ext : BitVec 26
  mstatus : MStatus
  m : MCsrs
  pmpcfg : Vector Byte 64
  pmpaddr : Vector Word 64
  s : SCsrs
  h : HCsrs
  vs : VsCsrs
  lines : Lines
  /-- The timer device (R920) and the software-interrupt word (R922). -/
  mtime : Word
  mtimecmp : Word
  msip : Bool
  reservation : Option Reservation
  /-- WFI is stalling the hart (R59). -/
  stalled : Bool
  tc : List TcEntry
  /-- PMP settings of which cached results may still be in use (R57, R481): for accesses with V = 0, until an SFENCE.VMA
  of everything, and for guest accesses, until an HFENCE.GVMA of everything (R660). -/
  pmpStale : List PmpSettings
  pmpStaleG : List PmpSettings
  /-- Physical memory: addresses strictly rising, no byte equal to what an unlisted address reads as. -/
  mem : List Host.Cell
  /-- The model's own: the environment's events still to come; none left means the lines hold (log 6). -/
  env : List EnvEvent
  /-- The model's own: how many free values have been drawn (log 7). -/
  draws : Nat
deriving DecidableEq, Repr

/-- Why the machine stops with a fault. -/
inductive Fault where
  /-- `step` raises it when `cfg` is no implementation the spec allows (`Config.wf`): no such hart exists, so
  it is safe. -/
  | illegalConfig
deriving DecidableEq, Repr

/-- Why an instruction is refused. -/
inductive Refusal where
  /-- An arm of `exec` that has no meaning yet; safe. -/
  | notModelled (mnemonic : String)
  /-- `step` raises it on a word of a Volume I extension that `misa` shows enabled and the spec does not
  supply (R1007, R5); the model stops where hardware goes on, so it is safe. -/
  | volumeOne (e : VolumeOne)
deriving DecidableEq, Repr

/-- What a byte of memory that nothing has written reads as (DESIGN CHOICE, log 4). -/
def unlistedByte : Byte := 0

/-- `mstatus` after reset: MIE = 0 and MPRV = 0, MBE = 0 unless MBE can only be one, which its reader sees to (R960);
the other fields DESIGN CHOICE (log 3). -/
def MStatus.reset (c : Config) : MStatus :=
  { sie := false, mie := false, spie := false, mpie := false, ube := false, sbe := false, mbe := false
    spp := false, mpp := if c.misaExt.getLsbD Config.bitU then .user else .machine
    vs := 0, fs := 0, mprv := false, sum := false, mxr := false, tvm := false, tw := false, tsr := false
    mpv := false, gva := false, uxl := c.widest, sxl := c.widest }

def HStatus.reset (c : Config) : HStatus :=
  { vsbe := false, gva := false, spv := false, spvp := false, hu := false, vgein := 0
    vtvm := false, vtw := false, vtsr := false, vsxl := c.widest }

def VsStatus.reset (c : Config) : VsStatus :=
  { sie := false, spie := false, ube := false, spp := false, vs := 0, fs := 0
    sum := false, mxr := false, uxl := c.widest }

/-- Machine CSRs after reset: `mcause` = `RESET_CAUSE` (R960); the rest DESIGN CHOICE (log 3). -/
def MCsrs.reset (c : Config) : MCsrs :=
  { tvec := c.mtvec.reset, edeleg := 0, ideleg := 0, ie := 0, ip := 0, counteren := 0, countinhibit := 0, scratch := 0
    epc := 0, cause := c.resetCause, tval := 0, tval2 := 0, tinst := 0, fiom := false, pbmte := false
    cycle := 0, instret := 0, hpmcounter := Vector.replicate 29 0, hpmevent := Vector.replicate 29 0 }

def SCsrs.reset (c : Config) : SCsrs :=
  { tvec := c.stvec.reset, counteren := 0, fiom := false, scratch := 0, epc := 0, cause := 0, tval := 0, atp := 0 }

/-- `hgatp.MODE` = 0 (R960); the rest DESIGN CHOICE (log 3). -/
def HCsrs.reset (c : Config) : HCsrs :=
  { status := HStatus.reset c, edeleg := 0, ideleg := 0, vip := 0, geie := 0, fiom := false, pbmte := false
    counteren := 0, timedelta := 0, tval := 0, tinst := 0, gatp := 0 }

/-- `vsatp.MODE` = 0 (R960); the rest DESIGN CHOICE (log 3). -/
def VsCsrs.reset (c : Config) : VsCsrs :=
  { status := VsStatus.reset c, tvec := c.vstvec.reset, scratch := 0, epc := 0, cause := 0, tval := 0, atp := 0 }

def Lines.none : Lines :=
  { meip := false, seip := false, hgeip := 0, vsei := false, vsti := false, plat := 0 }

/-- The PMP registers after reset: A and L are 0, but for the entries to which the platform gives another value (R960); the
rest DESIGN CHOICE (log 3). -/
def pmpcfgReset (c : Config) : Vector Byte 64 :=
  c.pmpReset.foldr (fun e v => v.setIfInBounds e.1 e.2.1) (Vector.replicate 64 0)
def pmpaddrReset (c : Config) : Vector Word 64 :=
  c.pmpReset.foldr (fun e v => v.setIfInBounds e.1 e.2.2) (Vector.replicate 64 0)

/-- A hart of configuration `c` right after reset (R960 to R962). -/
def State.resetOf (c : Config) : State :=
  { cfg := c, x := Vector.replicate 32 0, pc := c.resetVector, priv := .machine, virt := false
    mxl := c.widest, ext := c.misaExt, mstatus := MStatus.reset c, m := MCsrs.reset c
    pmpcfg := pmpcfgReset c, pmpaddr := pmpaddrReset c
    s := SCsrs.reset c, h := HCsrs.reset c, vs := VsCsrs.reset c, lines := Lines.none
    mtime := 0, mtimecmp := 0, msip := false, reservation := none, stalled := false, tc := []
    pmpStale := [], pmpStaleG := [], mem := [], env := [], draws := 0 }

/-- The machine right after reset: the reference configuration of D1 (log 1). -/
def State.reset : State := State.resetOf Config.reference

end Sys2Proof.Machine
end

