-- ==== Sys2Proof/Machine/Ops.lean ====
section
/-! DEFINITION. The named operations over registers and memory, the widths and features in effect, the
interrupt-pending views, and the one operation that takes a trap (60_exceptions.md R880 to R885, R930 to R938),
with the returns from a trap beside it (41_machine_instructions.md R754, 42_supervisor_instructions.md R780). -/

namespace Sys2Proof.Machine

open Sys2Proof

/-- What a step or a meaning answers. -/
abbrev Out := Host.Outcome State Fault Refusal

/-! ## Features and widths in effect -/

/-- Extension bit `b` of `misa` (R103). -/
def State.hasExt (s : State) (b : Nat) : Bool := s.ext.getLsbD b

def State.hasS (s : State) : Bool := s.hasExt Config.bitS
def State.hasU (s : State) : Bool := s.hasExt Config.bitU
def State.hasH (s : State) : Bool := s.hasExt Config.bitH
def State.hasC (s : State) : Bool := s.hasExt Config.bitC

/-- `MXLEN` (R101). -/
def State.mxlen (s : State) : Xlen := s.mxl

/-- The width an XL field stands for: its only value, the value held, or that of the next higher mode (R118, R332,
R392). -/
def pickXl (set : XlSet) (field upper : Xlen) : Xlen :=
  match set with
  | .only x => x
  | .both => field
  | .copy => upper

/-- `SXLEN`, also HSXLEN (R118). -/
def State.sxlen (s : State) : Xlen :=
  match s.mxl with
  | .x32 => .x32
  | .x64 => pickXl s.cfg.sxl s.mstatus.sxl .x64

/-- The XLEN of the mode next above U-mode. -/
def State.aboveUser (s : State) : Xlen := if s.hasS then s.sxlen else s.mxl

/-- UXLEN is 32 because SXLEN is (R254), on a hart that does not follow R118 there (DESIGN CHOICE, log 28). -/
def State.uxlForced (s : State) : Bool := s.aboveUser == .x32 && !s.cfg.uxlUnchecked

/-- `UXLEN` (R118, R254; log 28). -/
def State.uxlen (s : State) : Xlen :=
  match s.mxl with
  | .x32 => .x32
  | .x64 => if s.uxlForced then .x32 else pickXl s.cfg.uxl s.mstatus.uxl s.aboveUser

/-- `VSXLEN` (R332). -/
def State.vsxlen (s : State) : Xlen :=
  match s.sxlen with
  | .x32 => .x32
  | .x64 => pickXl s.cfg.vsxl s.h.status.vsxl .x64

/-- The XLEN of VU-mode (R392). -/
def State.vuxlen (s : State) : Xlen :=
  match s.vsxlen with
  | .x32 => .x32
  | .x64 => pickXl s.cfg.vuxl s.vs.status.uxl .x64

/-- The XLEN of a mode (R33). -/
def State.xlenOf (s : State) (p : Priv) (v : Bool) : Xlen :=
  match p, v with
  | .machine, _ => s.mxlen
  | .supervisor, false => s.sxlen
  | .user, false => s.uxlen
  | .supervisor, true => s.vsxlen
  | .user, true => s.vuxlen

/-- The XLEN of the mode executing. -/
def State.xlen (s : State) : Xlen := s.xlenOf s.priv s.virt

/-- IALIGN in bytes (R107). -/
def State.ialign (s : State) : Nat := if s.hasC then 2 else 4

/-- A paged scheme exists at this width, so `satp.MODE` is not read-only zero (R122, R255, R310). -/
def pagedAt (c : Config) (xl : Xlen) : Bool :=
  match xl with
  | .x32 => c.sv32
  | .x64 => c.sv39

/-- `satp` can select a paged mode. -/
def State.pagedMode (s : State) : Bool := s.hasS && pagedAt s.cfg s.sxlen

/-- The mode of explicit accesses other than HLV and HSV: MPRV lends M-mode that of MPP and MPV (R120, R501). -/
def State.dataMode (s : State) : Priv × Bool :=
  if s.mstatus.mprv then (s.mstatus.mpp, s.hasH && (s.mstatus.mpp != .machine) && s.mstatus.mpv)
  else (s.priv, s.virt)

/-! ## Byte order (R124, R341, R394) -/

/-- An endianness field as it reads: hardwired, the value held, or a copy of another field. -/
def pickEndian (e : EndianSet) (field mbe sbe vsbe : Bool) : Bool :=
  match e with
  | .littleOnly => false
  | .bigOnly => true
  | .both => field
  | .copyMbe => mbe
  | .copySbe => sbe
  | .copyVsbe => vsbe

/-- `mstatus.MBE`. -/
def State.mbe (s : State) : Bool := pickEndian s.cfg.mbe s.mstatus.mbe false false false

/-- `mstatus.SBE`; read-only zero without S-mode. -/
def State.sbe (s : State) : Bool := s.hasS && pickEndian s.cfg.sbe s.mstatus.sbe s.mbe false false

/-- `mstatus.UBE`; read-only zero without U-mode. -/
def State.ube (s : State) : Bool := s.hasU && pickEndian s.cfg.ube s.mstatus.ube s.mbe s.sbe false

/-- `hstatus.VSBE`. -/
def State.vsbe (s : State) : Bool := pickEndian s.cfg.vsbe s.h.status.vsbe s.mbe s.sbe false

/-- `vsstatus.UBE`. -/
def State.vube (s : State) : Bool := pickEndian s.cfg.vube s.vs.status.ube s.mbe s.sbe s.vsbe

/-! ## Integer registers and `pc` -/

/-- The register as held (R35: `x0` reads as zero). -/
def State.readX (s : State) (r : RegIdx) : Word :=
  if r = 0 then 0 else s.x[r.toNat]'(by have := r.isLt; omega)

/-- A source operand: bits above XLEN are ignored (R36), so it is seen sign-extended from XLEN. -/
def State.src (s : State) (r : RegIdx) : Word := sxTo s.xlen (s.readX r)

/-- Write a result, sign-extended from XLEN (R36); `x0` ignores it (R35). -/
def State.writeX (s : State) (r : RegIdx) (v : Word) : State :=
  if r = 0 then s
  else { s with x := s.x.set r.toNat (sxTo s.xlen v) (by have := r.isLt; omega) }

/-- Write `pc`, sign-extended from XLEN (R36). -/
def State.setPc (s : State) (v : Word) : State := { s with pc := sxTo s.xlen v }

/-- Count one retired instruction unless `mcountinhibit.IR` is set (R160, R167). -/
def State.countRetired (s : State) : State :=
  if s.m.countinhibit.getLsbD 2 then s
  else { s with m := { s.m with instret := s.m.instret + 1 } }

/-- Complete an instruction that continues at `target`. -/
def State.retireTo (s : State) (target : Word) : State := (s.setPc target).countRetired

/-- Complete an instruction of 4 bytes (R37; R1001). -/
def State.retire (s : State) : State := s.retireTo (s.pc + 4)

/-! ## Free values -/

/-- One more free value has been drawn. -/
def State.drew (s : State) : State := { s with draws := s.draws + 1 }

/-! ## Memory -/

/-- The byte a cell list gives address `k`. -/
def Memory.read : List Host.Cell → Nat → Byte
  | [], _ => unlistedByte
  | (a, b) :: t, k => if k = a then b else Memory.read t k

/-- Write one byte, keeping the canonical form. -/
def Memory.write : List Host.Cell → Nat → Byte → List Host.Cell
  | [], k, v => if v = unlistedByte then [] else [(k, v)]
  | (a, b) :: t, k, v =>
    if k < a then (if v = unlistedByte then (a, b) :: t else (k, v) :: (a, b) :: t)
    else if k = a then (if v = unlistedByte then t else (k, v) :: t)
    else (a, b) :: Memory.write t k v

/-- Every address of the list is above `k`, in strictly rising order, and no byte is the unlisted one. -/
def Memory.wfAbove : Nat → List Host.Cell → Bool
  | _, [] => true
  | k, (a, b) :: t => decide (k < a) && (b != unlistedByte) && Memory.wfAbove a t

/-- The canonical form of memory. -/
def Memory.wf : List Host.Cell → Bool
  | [] => true
  | (a, b) :: t => (b != unlistedByte) && Memory.wfAbove a t

/-- Address `a` is one of the `n` bytes at `base`. -/
def inRange (a base n : Nat) : Bool := decide (base ≤ a) && decide (a < base + n)

/-- Read one byte of physical memory: the timer and software-interrupt registers at their addresses
(R920, R922), cells elsewhere. The least significant byte of a register is at its lowest address whatever MBE is (DESIGN
CHOICE, log 44). -/
def State.readPhys (s : State) (a : Nat) : Byte :=
  if inRange a s.cfg.mtimeAddr 8 then byteOf s.mtime (a - s.cfg.mtimeAddr)
  else if inRange a s.cfg.mtimecmpAddr 8 then byteOf s.mtimecmp (a - s.cfg.mtimecmpAddr)
  else if inRange a s.cfg.msipAddr 4 then (if a = s.cfg.msipAddr ∧ s.msip then 1 else 0)
  else Memory.read s.mem a

/-- Write one byte of physical memory; only bit 0 of the software-interrupt word is writable (R922). -/
def State.writePhys (s : State) (a : Nat) (b : Byte) : State :=
  if inRange a s.cfg.mtimeAddr 8 then { s with mtime := setByte s.mtime (a - s.cfg.mtimeAddr) b }
  else if inRange a s.cfg.mtimecmpAddr 8 then
    { s with mtimecmp := setByte s.mtimecmp (a - s.cfg.mtimecmpAddr) b }
  else if inRange a s.cfg.msipAddr 4 then
    (if a = s.cfg.msipAddr then { s with msip := b.getLsbD 0 } else s)
  else { s with mem := Memory.write s.mem a b }

/-- The `n` bytes at `a`, lowest address first. -/
def State.readBytes (s : State) (a : Nat) : Nat → List Byte
  | 0 => []
  | n + 1 => s.readPhys a :: s.readBytes (a + 1) n

/-- Write bytes at `a` upward. -/
def State.writeBytes (s : State) (a : Nat) : List Byte → State
  | [] => s
  | b :: t => (s.writePhys a b).writeBytes (a + 1) t

/-- The bytes of the low `n` bytes of `v`, least significant first. -/
def bytesLE (v : Word) : Nat → List Byte
  | 0 => []
  | n + 1 => v.setWidth 8 :: bytesLE (v >>> 8) n

/-- Bytes in address order under a byte order (R455): big-endian puts the most significant first. -/
def inOrder (big : Bool) (l : List Byte) : List Byte := if big then l.reverse else l

/-- Read an `n`-byte value (R455). -/
def State.readPhysN (s : State) (big : Bool) (a n : Nat) : Word := ofBytes (inOrder big (s.readBytes a n))

/-- Write an `n`-byte value (R455). -/
def State.writePhysN (s : State) (big : Bool) (a n : Nat) (v : Word) : State :=
  s.writeBytes a (inOrder big (bytesLE v n))

/-! ## Pending interrupts (R148 to R154, R346 to R357, R416) -/

/-- Bits 16 and up: platform interrupts (R150). -/
def platformBits : Word := ~~~0xFFFF#64

/-- MTIP (R920). -/
def State.mtip (s : State) : Bool := decide (s.mtimecmp.toNat ≤ s.mtime.toNat)

/-- The bits GEILEN:1 (R356). -/
def State.geiMask (s : State) : Word := ones 1 (s.cfg.geilen + 1)

/-- `hgeip`, of HSXLEN bits for implicit reads as for explicit ones (R50, R356). -/
def State.hgeip (s : State) : Word := zxTo s.sxlen (s.lines.hgeip &&& s.geiMask)

/-- SGEIP (R351). -/
def State.sgeip (s : State) : Bool := (s.hgeip &&& s.h.geie) != 0

/-- VSEIP (R352). -/
def State.vseip (s : State) : Bool :=
  s.h.vip.getLsbD 10
    || ((s.h.status.vgein != 0) && s.hgeip.getLsbD s.h.status.vgein.toNat)
    || s.lines.vsei

/-- VSTIP (R353). -/
def State.vstip (s : State) : Bool := s.h.vip.getLsbD 6 || s.lines.vsti

/-- Bits 12, 10, 6 and 2 of `hip` and `mip` (R348, R416). -/
def State.hipStandard (s : State) : Word :=
  if s.hasH then flag s.sgeip 12 ||| flag s.vseip 10 ||| flag s.vstip 6 ||| flag (s.h.vip.getLsbD 2) 2 else 0

/-- The supervisor bits 9, 5 and 1 that are implemented (R268); read-only zero without S-mode (R152). -/
def State.sBits (s : State) : Word := if s.hasS then s.cfg.sIrqMask &&& 0x222#64 else 0

/-- The hypervisor bits 10, 6 and 2, and 12 if a guest external interrupt exists (R415, R416). -/
def State.hBits (s : State) : Word :=
  if s.hasH then (if s.cfg.geilen = 0 then 0x444#64 else 0x1444#64) else 0

/-- The platform bits this hart has (R150); with H also those `hvip` can assert (R346; log 33). -/
def State.platBits (s : State) : Word :=
  (s.cfg.mipPlatformMask ||| (if s.hasH then s.cfg.hvipPlatformMask else 0)) &&& platformBits
    &&& (match s.mxlen with | .x32 => 0xFFFFFFFF#64 | .x64 => ~~~0#64)

/-- The value a read of `mip` returns and interrupt decisions use (R888): SEIP is B or E (R152). -/
def State.mip (s : State) : Word :=
  flag s.lines.meip 11 ||| flag s.mtip 7 ||| flag s.msip 3
    ||| ((s.m.ip ||| flag s.lines.seip 9) &&& s.sBits)
    ||| s.hipStandard
    ||| ((s.lines.plat ||| (if s.hasH then s.h.vip &&& s.cfg.hvipPlatformMask else 0)) &&& s.platBits)

/-- The bits `mie` implements (R154, R416). -/
def State.mieMask (s : State) : Word := 0x888#64 ||| s.sBits ||| s.hBits ||| s.platBits

/-- `mie` as read. -/
def State.mie (s : State) : Word := s.m.ie &&& s.mieMask

/-- The read-only ones of `mideleg`: those the implementation fixes for its supervisor interrupts (R145), the VS-level
bits, and SGEI if it exists (R415). -/
def State.midelegOnes (s : State) : Word := (s.cfg.midelegOnes &&& s.sBits) ||| s.hBits

/-- The writable bits of `mideleg` (R145, D25). -/
def State.midelegMask (s : State) : Word :=
  if s.hasS then s.cfg.midelegMask &&& (0x888#64 ||| s.sBits ||| s.platBits) &&& ~~~s.midelegOnes else 0

/-- `mideleg` as read. -/
def State.mideleg (s : State) : Word := (s.m.ideleg &&& s.midelegMask) ||| s.midelegOnes

/-- The writable bits of `hideleg` (R344); zero where `mideleg` is zero (R415). -/
def State.hidelegMask (s : State) : Word :=
  if s.hasH then (0x444#64 ||| (s.cfg.hidelegMask &&& s.platBits)) &&& s.mideleg else 0

def State.hideleg (s : State) : Word := s.h.ideleg &&& s.hidelegMask

/-- The writable bits of `medeleg`: the causes that can occur below M (R145). -/
def State.medelegMask (s : State) : Word :=
  if s.hasS then s.cfg.medelegMask &&& (if s.hasH then 0xF0B7FF#64 else 0xB3FF#64) else 0

def State.medeleg (s : State) : Word := s.m.edeleg &&& s.medelegMask

/-- The writable bits of `hedeleg` (R343, Table 8.2): bit 0 must be where IALIGN = 32 is possible, and is else as the
implementation has it, like the bits that are not in the table. -/
def State.hedelegMask (s : State) : Word :=
  if s.hasH then
    0xB1FE#64 ||| flag s.cfg.canIalign32 0 ||| (s.cfg.hedelegMask &&& ~~~0xF0BFFE#64)
  else 0

def State.hedeleg (s : State) : Word := s.h.edeleg &&& s.hedelegMask

/-! ## Exceptions -/

/-- The synchronous exceptions of R860. -/
inductive ExcCode where
  | instrMisaligned
  | instrAccess
  | illegal
  | breakpoint
  | loadMisaligned
  | loadAccess
  | storeMisaligned
  | storeAccess
  | ecallU
  | ecallS
  | ecallVs
  | ecallM
  | instrPage
  | loadPage
  | storePage
  | instrGuest
  | loadGuest
  | virtualInstr
  | storeGuest
deriving DecidableEq, Repr

/-- The Exception Code (R860). -/
def ExcCode.code : ExcCode → Nat
  | .instrMisaligned => 0
  | .instrAccess => 1
  | .illegal => 2
  | .breakpoint => 3
  | .loadMisaligned => 4
  | .loadAccess => 5
  | .storeMisaligned => 6
  | .storeAccess => 7
  | .ecallU => 8
  | .ecallS => 9
  | .ecallVs => 10
  | .ecallM => 11
  | .instrPage => 12
  | .loadPage => 13
  | .storePage => 15
  | .instrGuest => 20
  | .loadGuest => 21
  | .virtualInstr => 22
  | .storeGuest => 23

/-- The kinds whose trap may write a transformed instruction: those of explicit accesses (R935). -/
def ExcCode.explicitAccess : ExcCode → Bool
  | .loadMisaligned | .loadAccess | .storeMisaligned | .storeAccess | .loadPage | .storePage
  | .loadGuest | .storeGuest => true
  | _ => false

/-- An exception raised, with what the trap may write (R862). -/
structure Excn where
  code : ExcCode
  /-- The informative value of `xtval`. -/
  tval : Word
  /-- `tval` is a guest virtual address (R862, column GVA). -/
  guest : Bool := false
  /-- The faulting guest physical address of a guest-page fault (R371). -/
  gpa : Nat := 0
  /-- The fault is on an implicit VS-stage access: `some true` for a write (R936). -/
  implicit : Option Bool := none
  /-- The effective address of the access, for the address offset (R933). -/
  ea : Word := 0
deriving DecidableEq, Repr

/-- Where a trap goes. -/
inductive Dest where
  | m
  | s
  | vs
deriving DecidableEq, Repr

/-- Destination of a synchronous exception (R879, R881). -/
def State.exceptionTarget (s : State) (c : ExcCode) : Dest :=
  if s.priv = .machine then .m
  else if !s.hasS then .m
  else if !s.medeleg.getLsbD c.code then .m
  else if !s.hasH || !s.virt then .s
  else if !s.hedeleg.getLsbD c.code then .s
  else .vs

/-- What trap entry receives (R880). -/
structure TrapInfo where
  isInt : Bool
  code : Nat
  epc : Word
  tval : Word
  tval2 : Word
  gva : Bool
  tinst : Word
deriving DecidableEq, Repr

/-- `{Interrupt, Exception Code}` at the receiving width (R860, R885). -/
def causeWord (xl : Xlen) (isInt : Bool) (code : Nat) : Word :=
  zxTo xl (BitVec.ofNat 64 code) ||| flag isInt (xl.bits - 1)

/-- The trap vector target (R884), wrapping at the receiving width. -/
def trapVector (xl : Xlen) (tvec : Word) (isInt : Bool) (code : Nat) : Word :=
  let base := tvec &&& ~~~3#64
  sxTo xl (if isInt && tvec.getLsbD 0 then base + BitVec.ofNat 64 (4 * code) else base)

/-- The value a register that holds these addresses takes for `v` (R170, R177): an invalid address it cannot hold
becomes another invalid one (log 26). -/
def holdAddr (set : AddrSet) (xl : Xlen) (v : Word) : Word :=
  match xl, set with
  | .x32, _ => zxTo .x32 v
  | .x64, .all => v
  | .x64, .bits k => if signExtendsFrom k v then v else invalidWithLow k v

/-- The bits of `xepc` that are always zero: bit 0, and bit 1 where IALIGN can only be 32 (R170). -/
def epcZeros (c : Config) : Word := if c.misaExt.getLsbD Config.bitC then 1 else 3

/-- An `xepc` value, truncated to the receiving width (R170, R864, D54; log 43). -/
def epcValue (c : Config) (xl : Xlen) (pc : Word) : Word := holdAddr c.xepcLegal xl pc &&& ~~~epcZeros c

/-- An `xtval` value at the receiving width (R177, R864). -/
def tvalValue (c : Config) (xl : Xlen) (v : Word) : Word := holdAddr c.xtvalLegal xl v

/-- Trap entry into M-mode (R880). A read-only-zero `mtval` stays zero (R176). -/
def State.enterM (s : State) (t : TrapInfo) : State :=
  { s with
    mstatus := { s.mstatus with
      mpie := s.mstatus.mie, mie := false, mpp := s.priv
      mpv := if s.hasH then s.virt else s.mstatus.mpv
      gva := if s.hasH then t.gva else s.mstatus.gva }
    m := { s.m with
      epc := epcValue s.cfg s.mxlen t.epc
      cause := causeWord s.mxlen t.isInt t.code
      tval := if s.cfg.mtvalReadOnlyZero then 0 else tvalValue s.cfg s.mxlen t.tval
      tval2 := if s.hasH then zxTo s.mxlen t.tval2 else s.m.tval2
      tinst := if s.hasH then t.tinst else s.m.tinst }
    priv := .machine, virt := false
    pc := trapVector s.mxlen s.m.tvec t.isInt t.code }

/-- Trap entry into S-mode or HS-mode (R880). -/
def State.enterS (s : State) (t : TrapInfo) : State :=
  { s with
    mstatus := { s.mstatus with
      spie := s.mstatus.sie, sie := false, spp := decide (s.priv = .supervisor) }
    h := if s.hasH then
        { s.h with
          status := { s.h.status with
            spv := s.virt
            spvp := if s.virt then decide (s.priv = .supervisor) else s.h.status.spvp
            gva := t.gva }
          tval := zxTo s.sxlen t.tval2
          tinst := t.tinst }
      else s.h
    s := { s.s with
      epc := epcValue s.cfg s.sxlen t.epc
      cause := causeWord s.sxlen t.isInt t.code
      tval := tvalValue s.cfg s.sxlen t.tval }
    priv := .supervisor, virt := false
    pc := trapVector s.sxlen s.s.tvec t.isInt t.code }

/-- The VS-level interrupt codes 10, 6 and 2 are seen by the guest as 9, 5 and 1 (R345, R882). -/
def vsCode (isInt : Bool) (code : Nat) : Nat :=
  if isInt && (code == 10 || code == 6 || code == 2) then code - 1 else code

/-- Trap entry into VS-mode (R882). -/
def State.enterVS (s : State) (t : TrapInfo) : State :=
  { s with
    vs := { s.vs with
      status := { s.vs.status with
        spie := s.vs.status.sie, sie := false, spp := decide (s.priv = .supervisor) }
      epc := epcValue s.cfg s.vsxlen t.epc
      cause := causeWord s.vsxlen t.isInt (vsCode t.isInt t.code)
      tval := tvalValue s.cfg s.vsxlen t.tval }
    priv := .supervisor, virt := true
    pc := trapVector s.vsxlen s.vs.tvec t.isInt (vsCode t.isInt t.code) }

/-- Enter the handler of `d`. -/
def State.enter (s : State) (d : Dest) (t : TrapInfo) : State :=
  match d with
  | .m => s.enterM t
  | .s => s.enterS t
  | .vs => s.enterVS t

/-- The transformed instruction with address offset `o` (R931, R932); zero for a word that has none. -/
def transformed (w : BitVec 32) (o : Nat) : Word :=
  let off : BitVec 32 := BitVec.ofNat 32 (o % 32) <<< 15
  if opcodeOf w = 0b0000011#7 then ((w &&& 0x00007FFF#32) ||| off).setWidth 64
  else if opcodeOf w = 0b0100011#7 then ((w &&& 0x01F0707F#32) ||| off).setWidth 64
  else if opcodeOf w = 0b0101111#7 ∨ (opcodeOf w = 0b1110011#7 ∧ funct3Of w = 4) then
    ((w &&& 0xFFF07FFF#32) ||| off).setWidth 64
  else 0

/-- The pseudoinstruction for an implicit VS-stage access (R936, Table 8.12). -/
def pseudoInstr (xl : Xlen) (isWrite : Bool) : Word :=
  match xl, isWrite with
  | .x32, false => 0x00002000#64
  | .x32, true => 0x00002020#64
  | .x64, false => 0x00003000#64
  | .x64, true => 0x00003020#64

/-- A guest physical address as `htval` and `mtval2` show it, shifted right by 2 (R372), or zero: the platform's choice,
or one the registers cannot hold (R370, R373). -/
def State.tval2Of (s : State) (e : Excn) : Word :=
  match e.code with
  | .instrGuest | .loadGuest | .storeGuest =>
    if s.cfg.xtval2Zero || decide (2 ^ s.cfg.htvalBits ≤ e.gpa >>> 2) then 0 else BitVec.ofNat 64 (e.gpa >>> 2)
  | _ => 0

/-- The trap-instruction value of an exception raised by the word `w` (R930, R935, R936, R938). -/
def State.tinstOf (s : State) (w : BitVec 32) (e : Excn) : Word :=
  match e.implicit with
  | some isWrite => if s.tval2Of e = 0 then 0 else pseudoInstr s.vsxlen isWrite
  | none =>
    if s.cfg.xtinstTransformed.getLsbD e.code.code && e.code.explicitAccess then
      transformed w (e.tval - e.ea).toNat
    else 0

/-- `pc` as a trap saves it: as held, that is sign-extended from the XLEN of the mode (R864), or zero-extended from it
(D54), as the implementation has it: the source is silent and the spec's two files differ (log 43). -/
def State.savedPc (s : State) : Word := if s.cfg.epcZeroExtends then zxTo s.xlen s.pc else s.pc

/-- The trap information of an exception raised by the word `w` at `pc` (R862 to R864). The value of `xtval`
is zero for the codes the platform so chooses. -/
def State.trapInfo (s : State) (w : BitVec 32) (e : Excn) : TrapInfo :=
  let zero := s.cfg.xtvalZero.getLsbD e.code.code
  { isInt := false, code := e.code.code, epc := s.savedPc
    tval := if zero then 0 else e.tval
    tval2 := s.tval2Of e, gva := e.guest && !zero, tinst := s.tinstOf w e }

/-- TAKE AN EXCEPTION raised by the instruction word `w` (R879, R880, R882). -/
def State.takeException (s : State) (w : BitVec 32) (e : Excn) : State :=
  s.enter (s.exceptionTarget e.code) (s.trapInfo w e)

/-- The instruction bits an exception reports: the first ILEN (R178). -/
def State.reported (s : State) (w : BitVec 32) : Word := w.setWidth 64 &&& ones 0 s.cfg.ilen

/-- The illegal-instruction exception with the word in `xtval` (R178, R862). -/
def State.takeIllegal (s : State) (w : BitVec 32) : State :=
  s.takeException w { code := .illegal, tval := s.reported w }

/-- The virtual-instruction exception, `xtval` as for an illegal instruction (R868). -/
def State.takeVirtual (s : State) (w : BitVec 32) : State :=
  s.takeException w { code := .virtualInstr, tval := s.reported w }

/-- Whether a permission check lets an instruction run (R868, R871). -/
inductive Permit where
  | ok
  | illegal
  | virt
deriving DecidableEq, Repr

/-- Run `k` if permitted, else take the exception the check names. -/
def State.guarded (s : State) (w : BitVec 32) (p : Permit) (k : State → Out) : Out :=
  match p with
  | .ok => k s
  | .illegal => .next (s.takeIllegal w)
  | .virt => .next (s.takeVirtual w)

/-! ## Return from a trap -/

/-- `xepc` as an xRET reads it: bit 0 zero, bit 1 masked while IALIGN = 32 (R170, R280). -/
def State.epcRead (s : State) (v : Word) : Word := if s.hasC then v &&& ~~~1#64 else v &&& ~~~3#64

/-- The least-privileged supported mode (R117). -/
def State.lowestPriv (s : State) : Priv := if s.hasU then .user else .machine

/-- An xRET may clear the reservation (R753): a free choice. -/
def State.freeReservation (s : State) : State :=
  { s with
    reservation := match s.reservation with
      | none => none
      | some r => if Config.freeBit s.draws then some r else none
    draws := s.draws + 1 }

/-- The state after MRET's effect on the stacks and the mode (R754). -/
def State.returnFromM (s : State) : State :=
  let y := s.mstatus.mpp
  let newV := s.hasH && (y != .machine) && s.mstatus.mpv
  ({ s with
    mstatus := { s.mstatus with
      mie := s.mstatus.mpie, mpie := true, mpp := s.lowestPriv
      mpv := if s.hasH then false else s.mstatus.mpv
      mprv := if y = .machine then s.mstatus.mprv else false }
    priv := y, virt := newV } : State)

/-- The state after SRET's effect when V = 0 (R780). -/
def State.returnFromS (s : State) : State :=
  { s with
    mstatus := { s.mstatus with sie := s.mstatus.spie, spie := true, spp := false, mprv := false }
    h := if s.hasH then { s.h with status := { s.h.status with spv := false } } else s.h
    priv := if s.mstatus.spp then .supervisor else .user
    virt := s.hasH && s.h.status.spv }

/-- The state after SRET's effect when V = 1 (R780). -/
def State.returnFromVS (s : State) : State :=
  { s with
    vs := { s.vs with status := { s.vs.status with sie := s.vs.status.spie, spie := true, spp := false } }
    priv := if s.vs.status.spp then .supervisor else .user }

end Sys2Proof.Machine
end

