-- ==== Sys2Proof/Machine/Operands.lean ====
section
/-! DEFINITION. Every operand form: immediates, effective addresses, shift amounts, CSR sources
(45_base_isa_subset.md R1001 to R1004, 40_csr_access.md R720). -/

namespace Sys2Proof.Machine

open Sys2Proof

/-- I-type and S-type immediates, sign-extended (R1001). -/
def immOf (imm : BitVec 12) : Word := imm.signExtend 64

/-- The U-type immediate: 20 bits above 12 zeros, sign-extended (R1001, R1002). -/
def upperOf (imm : BitVec 20) : Word := (imm ++ 0#12).signExtend 64

/-- The value of a jump offset (R1001). -/
def jumpOf (off : BitVec 21) : Word := off.signExtend 64

/-- The value of a branch offset (R1001). -/
def branchOf (off : BitVec 13) : Word := off.signExtend 64

/-- `x[rs1] + sext(imm)` modulo 2^XLEN of the executing mode, zero-extended (R1003, R502). -/
def State.effAddr (s : State) (rs1 : RegIdx) (imm : BitVec 12) : Word :=
  zxTo s.xlen (s.src rs1 + immOf imm)

/-- The address operand of HLV, HLVX and HSV: `x[rs1]`, no immediate (R820). -/
def State.baseAddr (s : State) (rs1 : RegIdx) : Word := zxTo s.xlen (s.src rs1)

/-- The register source of a CSR instruction, XLEN bits (R720). -/
def State.csrSource (s : State) (rs1 : RegIdx) : Word := zxTo s.xlen (s.src rs1)

/-- The immediate source of a CSR instruction, zero-extended (R681). -/
def uimmOf (u : BitVec 5) : Word := u.setWidth 64

/-- `x[rs2] mod XLEN`: the shift amount of a register shift (R1004). -/
def State.shiftAmount (s : State) (rs2 : RegIdx) : Nat := (s.src rs2).toNat % s.xlen.bits

/-- Shift left in XLEN bits (R1004); the writer sign-extends. -/
def shiftLeft (_ : Xlen) (v : Word) (n : Nat) : Word := v <<< n

/-- Logical right shift of the XLEN-bit value (R1004). -/
def shiftRightL (xl : Xlen) (v : Word) (n : Nat) : Word := zxTo xl v >>> n

/-- Arithmetic right shift of the XLEN-bit value (R1004). -/
def shiftRightA (xl : Xlen) (v : Word) (n : Nat) : Word := (sxTo xl v).sshiftRight n

/-- A 6-bit shift amount exists at this XLEN: 5 bits on RV32 (R1004). -/
def shamtValid (xl : Xlen) (sh : BitVec 6) : Bool := decide (sh.toNat < xl.bits)

/-- A branch or jump target: modulo 2^XLEN (R1001). -/
def State.target (s : State) (base off : Word) : Word := zxTo s.xlen (base + off)

/-- Whether a target is IALIGN-aligned (R872). -/
def State.aligned (s : State) (target : Word) : Bool := target.toNat % s.ialign == 0

end Sys2Proof.Machine
end

