-- ==== Sys2Proof/Machine/Flags.lean ====
section
/-! DEFINITION. The architecture has no condition codes (10_state.md R39): a comparison produces a value or
decides a branch and leaves no flag. The only status flag computed from others is SD (11_state_machine_csrs.md
R133). -/

namespace Sys2Proof.Machine

open Sys2Proof

/-- Signed less-than on XLEN-bit operands held sign-extended (R1002, R1004). -/
def ltSigned (a b : Word) : Bool := a.slt b

/-- Unsigned less-than; sign-extension from XLEN keeps the unsigned order (R1002, R1004). -/
def ltUnsigned (a b : Word) : Bool := a.ult b

/-- The 0 or 1 that SLT and its siblings write (R1004). -/
def boolWord (b : Bool) : Word := if b then 1 else 0

/-- SD = (FS = 3) or (XS = 3) or (VS = 3), with XS read-only zero (R130, R133, R393). -/
def sdFlag (fs vs : BitVec 2) : Bool := (fs == 3) || (vs == 3)

end Sys2Proof.Machine
end

