-- ==== Sys2Proof/Machine/Control.lean ====
section
/-! DEFINITION. LUI, AUIPC, JAL, JALR and the branches (45_base_isa_subset.md R1002). -/

namespace Sys2Proof.Machine

open Sys2Proof

/-- Transfer control to `target` writing `rd` with the return address, or raise instruction address misaligned
on the jump itself with no register written (R872, R1002). -/
def State.jump (s : State) (w : BitVec 32) (rd : RegIdx) (target : Word) : Out :=
  if s.aligned target then .next ((s.writeX rd (s.pc + 4)).retireTo target)
  else .next (s.takeException w { code := .instrMisaligned, tval := target, guest := s.virt, ea := target })

/-- A conditional branch (R1002): not taken, it goes on at `pc + 4` and never raises. -/
def State.branch (s : State) (w : BitVec 32) (taken : Bool) (off : BitVec 13) : Out :=
  if taken then s.jump w 0 (s.target s.pc (branchOf off)) else .next s.retire

/-- LUI (R1002). -/
def execLui (rd : RegIdx) (imm : BitVec 20) (s : State) : Out := .next (s.writeX rd (upperOf imm)).retire

/-- AUIPC (R1002). -/
def execAuipc (rd : RegIdx) (imm : BitVec 20) (s : State) : Out :=
  .next (s.writeX rd (s.pc + upperOf imm)).retire

/-- JAL (R1002). -/
def execJal (rd : RegIdx) (off : BitVec 21) (s : State) : Out :=
  s.jump (encode (.jal rd off)) rd (s.target s.pc (jumpOf off))

/-- JALR (R1002): bit 0 of the sum is cleared. -/
def execJalr (rd rs1 : RegIdx) (imm : BitVec 12) (s : State) : Out :=
  s.jump (encode (.jalr rd rs1 imm)) rd (s.target (s.src rs1) (immOf imm) &&& ~~~1#64)

/-- BEQ (R1002). -/
def execBeq (rs1 rs2 : RegIdx) (off : BitVec 13) (s : State) : Out :=
  s.branch (encode (.beq rs1 rs2 off)) (s.src rs1 == s.src rs2) off

/-- BNE (R1002). -/
def execBne (rs1 rs2 : RegIdx) (off : BitVec 13) (s : State) : Out :=
  s.branch (encode (.bne rs1 rs2 off)) (s.src rs1 != s.src rs2) off

/-- BLT (R1002). -/
def execBlt (rs1 rs2 : RegIdx) (off : BitVec 13) (s : State) : Out :=
  s.branch (encode (.blt rs1 rs2 off)) (ltSigned (s.src rs1) (s.src rs2)) off

/-- BGE (R1002). -/
def execBge (rs1 rs2 : RegIdx) (off : BitVec 13) (s : State) : Out :=
  s.branch (encode (.bge rs1 rs2 off)) (!ltSigned (s.src rs1) (s.src rs2)) off

/-- BLTU (R1002). -/
def execBltu (rs1 rs2 : RegIdx) (off : BitVec 13) (s : State) : Out :=
  s.branch (encode (.bltu rs1 rs2 off)) (ltUnsigned (s.src rs1) (s.src rs2)) off

/-- BGEU (R1002). -/
def execBgeu (rs1 rs2 : RegIdx) (off : BitVec 13) (s : State) : Out :=
  s.branch (encode (.bgeu rs1 rs2 off)) (!ltUnsigned (s.src rs1) (s.src rs2)) off

end Sys2Proof.Machine
end

