-- ==== Sys2Proof/Machine/Pmp.lean ====
section
/-! DEFINITION. Physical memory protection (20_memory.md R470 to R482) and physical memory attributes
(20_memory.md R452 to R466). -/

namespace Sys2Proof.Machine

open Sys2Proof

/-- What an access needs of PMP and PMA. HLVX needs R and X, an AMO R and W (R480, R826). -/
structure Need where
  r : Bool
  w : Bool
  x : Bool
deriving DecidableEq, Repr

/-- `pmp<i>cfg` (R471); zero beyond the 64 entries. -/
def State.pmpCfg (s : State) (i : Nat) : Byte := s.pmpcfg.getD i 0

/-- The A field: 0 OFF, 1 TOR, 2 NA4, 3 NAPOT (R473). -/
def pmpA (c : Byte) : Nat := (c.extractLsb' 3 2).toNat

/-- The L bit (R477). -/
def pmpLocked (c : Byte) : Bool := c.getLsbD 7

/-- `pmpaddr<i>` as stored. -/
def State.pmpAddrRaw (s : State) (i : Nat) : Word := s.pmpaddr.getD i 0

/-- The bits of a `pmpaddr` register (R472). -/
def State.pmpaddrWidth (s : State) : Nat :=
  match s.mxlen with
  | .x32 => 32
  | .x64 => 54

/-- `pmpaddr<i>` as read: the grain fixes low bits by the A field (R476). -/
def State.pmpAddr (s : State) (i : Nat) : Word :=
  let g := s.cfg.pmpG
  let raw := s.pmpAddrRaw i
  if 2 ≤ pmpA (s.pmpCfg i) then (if 2 ≤ g then raw ||| ones 0 (min (g - 1) s.pmpaddrWidth) else raw)
  else (if 1 ≤ g then raw &&& ~~~ones 0 g else raw)

/-- `pmpaddr<i>` as a bound of a TOR range: bits G-1:0 do not matter (R475, R476). -/
def State.pmpBound (s : State) (i : Nat) : Nat := (s.pmpAddrRaw i).toNat >>> s.cfg.pmpG <<< s.cfg.pmpG

/-- Entry `i` matches the byte at `y` (R473 to R475). -/
def State.pmpMatches (s : State) (i y : Nat) : Bool :=
  match pmpA (s.pmpCfg i) with
  | 0 => false
  | 1 =>
    decide ((if i = 0 then 0 else s.pmpBound (i - 1)) ≤ y >>> 2) && decide (y >>> 2 < s.pmpBound i)
  | 2 => y >>> 2 == (s.pmpAddr i).toNat
  | _ =>
    let a := (s.pmpAddr i).toNat
    let t := trailingOnes 64 a
    y >>> (t + 3) == a >>> (t + 1)

/-- The permissions of entry `c` cover the need (R471, R480). -/
def pmpAllows (c : Byte) (need : Need) : Bool :=
  (!need.r || c.getLsbD 0) && (!need.w || c.getLsbD 1) && (!need.x || c.getLsbD 2)

/-- How many of the `n` bytes at `pa` entry `i` matches. -/
def State.pmpCount (s : State) (i pa : Nat) : Nat → Nat
  | 0 => 0
  | n + 1 => (if s.pmpMatches i (pa + n) then 1 else 0) + s.pmpCount i pa n

/-- The entries from `i` upward, `left` of them, in priority order (R478, R479). -/
def State.pmpScan (s : State) (pa n : Nat) (need : Need) (mode : Priv) : Nat → Nat → Bool
  | 0, _ => decide (mode = .machine) || s.cfg.pmpCount == 0
  | left + 1, i =>
    let m := s.pmpCount i pa n
    if m = 0 then s.pmpScan pa n need mode left (i + 1)
    else if m < n then false
    else if !pmpLocked (s.pmpCfg i) && decide (mode = .machine) then true
    else pmpAllows (s.pmpCfg i) need

/-- `pmp_check` (R478). -/
def State.pmpCheck (s : State) (pa n : Nat) (need : Need) (mode : Priv) : Bool :=
  s.pmpScan pa n need mode s.cfg.pmpCount 0

/-- Region `r` holds all `n` bytes at `pa`. -/
def regionHolds (pa n : Nat) (r : PmaRegion) : Bool := decide (r.base ≤ pa) && decide (pa + n ≤ r.base + r.size)

/-- The region of an access: none means vacant, also for addresses beyond `PALEN` (R451, R453). Regions do not overlap
(`Config.mapWf`); bytes in two adjacent ones have none (DESIGN CHOICE, log 30). -/
def State.pmaRegion (s : State) (pa n : Nat) : Option PmaRegion :=
  if pa + n ≤ 2 ^ s.cfg.palen then s.cfg.pma.find? (regionHolds pa n) else none

/-- The atomic operations as access types (R456, R507). -/
inductive AmoOp where
  | swap
  | and
  | or
  | xor
  | add
  | min
  | max
  | minu
  | maxu
deriving DecidableEq, Repr

/-- The AMO class includes the operation (R456, Table 3.9). -/
def amoSupported : AmoClass → AmoOp → Bool
  | .none, _ => false
  | .swap, .swap => true
  | .swap, _ => false
  | .logical, .swap | .logical, .and | .logical, .or | .logical, .xor => true
  | .logical, _ => false
  | .arithmetic, _ => true

/-- What kind of explicit access this is beyond load or store (R500, `attrs`). -/
inductive AtomicKind where
  | plain
  | lr
  | sc
  | amo (op : AmoOp)
deriving DecidableEq, Repr

/-- The attributes a PBMT value requests (R590, Table 6.1); the others, and vacancy, are inherited. -/
def overridePbmt (pbmt : Nat) (r : PmaRegion) : PmaRegion :=
  if pbmt = 1 then
    { r with kind := .mainMemory, ordering := .mainMemory, cacheable := false
             idempotentRead := true, idempotentWrite := true }
  else if pbmt = 2 then
    { r with kind := .io, ordering := .ioStrong 0, cacheable := false
             idempotentRead := false, idempotentWrite := false }
  else r

/-- The region supports the access: widths for each need, atomicity (R454, R456, R458). -/
def pmaAllows (r : PmaRegion) (n : Nat) (need : Need) (at_ : AtomicKind) : Bool :=
  (!need.r || r.read.contains n) && (!need.w || r.write.contains n) && (!need.x || r.exec.contains n)
    && (match at_ with
        | .plain => true
        | .lr => r.rsrv != .none
        | .sc => r.rsrv != .none
        | .amo op => amoSupported r.amo op)

/-- A page-table access of this kind is supported there: for a hardware A/D update page-table writes and some
atomicity (R454, R562; log 30). The widths of the region's plain reads and writes do not bind it, where R454, R466 and
R564 do not say whether they do (DESIGN CHOICE, log 30). -/
def pmaAllowsPtw (r : PmaRegion) (isWrite : Bool) : Bool :=
  if isWrite then r.ptwWrite && (r.rsrv != .none || r.amo != .none) else r.ptwRead

/-! ## Cached PMP results (R481, R660; U30) -/

/-- A number for a need, so that checks of different kinds draw apart. -/
def Need.code (n : Need) : Nat := (if n.r then 1 else 0) + (if n.w then 2 else 0) + (if n.x then 4 else 0)

/-- `s` with other PMP registers. -/
def State.withPmp (s : State) (p : PmpSettings) : State := { s with pmpcfg := p.pmpcfg, pmpaddr := p.pmpaddr }

/-- The settings an access uses: the present ones, or, chosen freely, some that an older check result may still stand
for. A guest access is one with an effective V of 1. -/
def State.pmpInUse (s : State) (guest : Bool) (pa : Nat) (need : Need) : State :=
  match if guest then s.pmpStaleG else s.pmpStale with
  | [] => s
  | p :: rest =>
    match (p :: rest)[Config.freePmp s.draws (8 * pa + need.code) % (rest.length + 2)]? with
    | some old => s.withPmp old
    | none => s

/-- `pmp_check` of an access (R478), possibly by a cached result. -/
def State.pmpAllowed (s : State) (guest : Bool) (pa n : Nat) (need : Need) (mode : Priv) : Bool :=
  (s.pmpInUse guest pa need).pmpCheck pa n need mode

/-- Results of checks under the settings of `before` may stay cached: only where cached translations exist
(`TC_REFILL`) and the hart has page-based virtual memory (R481). -/
def State.staleAfter (s before : State) : State :=
  if s.cfg.tcRefill && s.hasS && (s.cfg.sv32 || s.cfg.sv39)
      && decide (before.pmpcfg ≠ s.pmpcfg ∨ before.pmpaddr ≠ s.pmpaddr) then
    { s with
      pmpStale := { pmpcfg := before.pmpcfg, pmpaddr := before.pmpaddr } :: s.pmpStale
      pmpStaleG := { pmpcfg := before.pmpcfg, pmpaddr := before.pmpaddr } :: s.pmpStaleG }
  else s

end Sys2Proof.Machine
end

