-- ==== Sys2Proof/Machine/Translate.lean ====
section
/-! DEFINITION. Page-based translation, single-stage and two-stage, with the translation cache
(21_memory_translation.md R550 to R593; 22_memory_two_stage.md R630 to R661). -/

namespace Sys2Proof.Machine

open Sys2Proof

/-- The result of a part of an access: a value, or the exception raised. Both keep the state, because a
hardware A/D update and a cache fill remain when a later check fails (R562, R865). -/
inductive Res (α : Type) where
  | ok (a : α) (s : State)
  | exn (e : Excn) (s : State)
deriving DecidableEq, Repr

def Res.bind {α β : Type} (r : Res α) (f : α → State → Res β) : Res β :=
  match r with
  | .ok a s => f a s
  | .exn e s => .exn e s

/-- The kinds of access (R500): LR is a load; SC and AMO are stores. -/
inductive AccKind where
  | fetch
  | load
  | store
deriving DecidableEq, Repr

/-- The original access an exception is reported for: its kind, the virtual address of the portion being
translated, whether the effective V is 1, and the effective address of the whole access. -/
structure Orig where
  kind : AccKind
  va : Word
  guest : Bool
  ea : Word
deriving DecidableEq, Repr

/-- The page fault of the original access (R555). -/
def Orig.pageFault (o : Orig) : Excn :=
  { code := match o.kind with
      | .fetch => .instrPage
      | .load => .loadPage
      | .store => .storePage
    tval := o.va, guest := o.guest, ea := o.ea }

/-- The access fault of the original access (R555, R646). -/
def Orig.accessFault (o : Orig) : Excn :=
  { code := match o.kind with
      | .fetch => .instrAccess
      | .load => .loadAccess
      | .store => .storeAccess
    tval := o.va, guest := o.guest, ea := o.ea }

/-- The guest-page fault of the original access (R648) for the guest physical address `gpa`. -/
def Orig.guestFault (o : Orig) (gpa : Nat) (implicit : Option Bool) : Excn :=
  { code := match o.kind with
      | .fetch => .instrGuest
      | .load => .loadGuest
      | .store => .storeGuest
    tval := o.va, guest := o.guest, gpa := gpa, implicit := implicit, ea := o.ea }

/-! ## Schemes -/

/-- The parameters of R551. -/
structure Scheme where
  levels : Nat
  pteSize : Nat
  vpnBits : Nat
  vaBits : Nat
deriving DecidableEq, Repr

def sv32 : Scheme := { levels := 2, pteSize := 4, vpnBits := 10, vaBits := 32 }
def sv39 : Scheme := { levels := 3, pteSize := 8, vpnBits := 9, vaBits := 39 }
def sv48 : Scheme := { levels := 4, pteSize := 8, vpnBits := 9, vaBits := 48 }
def sv57 : Scheme := { levels := 5, pteSize := 8, vpnBits := 9, vaBits := 57 }

/-- The MODE field of `satp`, `vsatp` or `hgatp` (R300, R378). -/
def atpMode (xl : Xlen) (v : Word) : Nat :=
  match xl with
  | .x32 => bitsAt v 31 1
  | .x64 => bitsAt v 60 4

/-- The scheme MODE selects (R301, R379); none is Bare. -/
def schemeOf (xl : Xlen) (v : Word) : Option Scheme :=
  match xl, atpMode xl v with
  | .x32, 1 => some sv32
  | .x64, 8 => some sv39
  | .x64, 9 => some sv48
  | .x64, 10 => some sv57
  | _, _ => none

/-- The PPN field (R300, R378). -/
def atpPpn (xl : Xlen) (v : Word) : Nat :=
  match xl with
  | .x32 => bitsAt v 0 22
  | .x64 => bitsAt v 0 44

/-- The ASID field (R300). -/
def atpAsid (xl : Xlen) (v : Word) : Nat :=
  match xl with
  | .x32 => bitsAt v 22 9
  | .x64 => bitsAt v 44 16

/-- The VMID field (R378). -/
def atpVmid (xl : Xlen) (v : Word) : Nat :=
  match xl with
  | .x32 => bitsAt v 22 7
  | .x64 => bitsAt v 44 14

/-- `hgatp.VMID`. -/
def State.vmid (s : State) : Nat := atpVmid s.sxlen s.h.gatp

/-! ## Page-table entries (R554) -/

def pteV (p : Word) : Bool := p.getLsbD 0
def pteR (p : Word) : Bool := p.getLsbD 1
def pteW (p : Word) : Bool := p.getLsbD 2
def pteX (p : Word) : Bool := p.getLsbD 3
def pteU (p : Word) : Bool := p.getLsbD 4
def pteG (p : Word) : Bool := p.getLsbD 5
def pteA (p : Word) : Bool := p.getLsbD 6
def pteD (p : Word) : Bool := p.getLsbD 7
def pteN (p : Word) : Bool := p.getLsbD 63

/-- The PBMT field (R590). -/
def ptePbmt (p : Word) : Nat := bitsAt p 61 2

/-- The PPN field: bits 31:10 of 4-byte entries, bits 53:10 of 8-byte entries. -/
def ptePpn (sc : Scheme) (p : Word) : Nat := if sc.pteSize = 4 then bitsAt p 10 22 else bitsAt p 10 44

/-- A leaf has R or X set (R552 step 4). -/
def pteLeaf (p : Word) : Bool := pteR p || pteX p

/-- A pointer to a further table: valid, with R, W and X clear (R552 step 4). -/
def ptePointer (p : Word) : Bool := pteV p && !pteR p && !pteW p && !pteX p

/-- The NAPOT leaf of 64 KiB (R580, Table 5.1). -/
def pteNapot (p : Word) : Bool := pteN p && (bitsAt p 10 4 == 0b1000)

/-- One stage of translation: what `satp`, `vsatp` or `hgatp` and the mode select. -/
structure Stage where
  kind : TcKind
  scheme : Scheme
  /-- Extra bits of the root index (R632): 2 at the G-stage. -/
  extra : Nat
  root : Nat
  asid : Nat
  vmid : Nat
  bigEndian : Bool
  /-- Svpbmt is available at this stage (R591). -/
  pbmte : Bool
  /-- The privilege the U bit is checked against (R556; user at the G-stage, R634). -/
  priv : Priv
  sum : Bool
  mxr : Bool
deriving DecidableEq, Repr

/-- Any reserved bit or encoding set in a valid entry (R561, R580, R590); `level` is the level it was read
at. -/
def State.pteReserved (s : State) (st : Stage) (level : Nat) (p : Word) : Bool :=
  (!pteR p && pteW p)
    || (!pteLeaf p && s.cfg.nonleafDauFault && (pteD p || pteA p || pteU p))
    || (st.scheme.pteSize == 8 &&
        (bitsAt p 54 7 != 0
          || (pteN p && !(s.cfg.svnapot && pteLeaf p && level == 0 && pteNapot p))
          || (ptePbmt p != 0 && !(st.pbmte && pteLeaf p && ptePbmt p != 3))))

/-- Permissions at a leaf (R556). -/
def leafPermits (st : Stage) (kind : AccKind) (hlvx : Bool) (p : Word) : Bool :=
  (match st.priv with
    | .user => pteU p
    | _ => !pteU p || (st.sum && kind != .fetch))
  && (match kind with
      | .fetch => pteX p
      | .load => if hlvx then pteX p else pteR p || (st.mxr && pteX p)
      | .store => pteW p)

/-- The PPN a leaf contributes: a NAPOT leaf takes the low four bits from the VPN (R580). -/
def leafPpn (sc : Scheme) (p : Word) (va : Nat) : Nat :=
  if sc.pteSize = 8 ∧ pteNapot p then ptePpn sc p / 16 * 16 + (va >>> 12) % 16 else ptePpn sc p

/-- The result of a walk: an address and the PBMT of the leaf. -/
structure Mapping where
  pa : Nat
  pbmt : Nat
deriving DecidableEq, Repr

/-! ## The translation cache (R570, R655) -/

/-- The entry may satisfy the step-2 read of `q` made for `va` at `shift` (R570). -/
def TcEntry.answers (e : TcEntry) (st : Stage) (q va shift : Nat) : Bool :=
  (e.kind == st.kind) && (e.pteAddr == q) && (e.shift == shift) && (e.pre == va >>> shift)
    && (match st.kind with
        | .hs => e.asid == st.asid || e.isGlobal
        | .vs => e.vmid == st.vmid && (e.asid == st.asid || e.isGlobal)
        | .g => e.vmid == st.vmid)

/-- What a step-2 read of `q` uses (R570, R572): none for memory, else a matching cache entry, chosen freely. -/
def State.drawPte (s : State) (st : Stage) (q va shift : Nat) : Option Word × State :=
  match s.tc.filter (fun e => e.answers st q va shift) with
  | [] => (none, s)
  | l => ((none :: l.map (fun e => some e.pteVal)).getD (Config.freeChoice s.draws % (l.length + 1)) none, s.drew)

/-- A NAPOT leaf, at the level whose entries map 2^`shift` bytes, on a hart that has them (R580). An entry whose V bit is
clear is none, whatever its N bit, so that a read of it is remembered for its own slot alone (DESIGN CHOICE, log 50). -/
def napotLeaf (c : Config) (st : Stage) (shift : Nat) (p : Word) : Bool :=
  c.svnapot && st.scheme.pteSize == 8 && shift == 12 && pteV p && pteLeaf p && pteNapot p

/-- The cache entry for a value read at `q` (R570). The G bit of an entry whose V bit is clear does not make it global,
because R557 leaves all its other bits to software (DESIGN CHOICE, log 50). -/
def newEntry (c : Config) (st : Stage) (q va shift : Nat) (glob : Bool) (p : Word) : TcEntry :=
  { kind := st.kind, asid := st.asid, vmid := st.vmid
    isGlobal := st.kind != .g && (glob || (pteV p && pteG p)), pteAddr := q, pteVal := p
    shift := shift, pre := va >>> shift, leaf := !ptePointer p
    fenceShift := if napotLeaf c st shift p then 16 else shift }

/-- The entries a read may create: one, or for a valid NAPOT leaf any of the sixteen slots (R581; log 50), as the bits of
`mask` say. -/
def newEntries (c : Config) (st : Stage) (q va shift : Nat) (glob : Bool) (p mask : Word) : List TcEntry :=
  if napotLeaf c st shift p then
    ((List.range 16).filter (fun j => mask.getLsbD j)).map
      (fun j => newEntry c st (q / 128 * 128 + j * 8) ((va >>> 16 <<< 16) + j * 4096) shift glob p)
  else if mask.getLsbD 0 then [newEntry c st q va shift glob p] else []

/-- A value read from memory may be added to the cache (`TC_REFILL`, R570); a speculative walk always adds
it (R573). -/
def State.fillTc (s : State) (st : Stage) (q va shift : Nat) (glob : Bool) (p : Word) (spec : Bool) : State :=
  if !s.cfg.tcRefill then s
  else
    let mask := if spec then ~~~0#64 else Config.freeWord s.draws
    { s with tc := newEntries s.cfg st q va shift glob p mask ++ s.tc, draws := s.draws + 1 }

/-! ## The walk -/

/-- One translation: the access whose permissions are checked, the address, the faults to raise, and whether
the walk is speculative (R573). -/
structure Walk where
  stage : Stage
  kind : AccKind
  hlvx : Bool
  va : Nat
  pf : Excn
  af : Excn
  spec : Bool
deriving DecidableEq, Repr

/-- An implicit access of the walk to the entry at `m` passes PMP as an S-mode access and PMA (R481, R454, R646); a
speculative read must not touch a page that is non-idempotent under its final attributes (R465, R592). -/
def State.ptwAllowed (s : State) (w : Walk) (m : Mapping) (isWrite : Bool) : Bool :=
  let n := w.stage.scheme.pteSize
  s.pmpAllowed (w.stage.kind != .hs) m.pa n { r := !isWrite, w := isWrite, x := false } .supervisor
    && (match s.pmaRegion m.pa n with
        | none => false
        | some r => pmaAllowsPtw r isWrite && (!w.spec || (overridePbmt m.pbmt r).idempotentRead))

/-- The value of a page-table entry in memory (R564). -/
def State.readPte (s : State) (st : Stage) (pa : Nat) : Word := s.readPhysN st.bigEndian pa st.scheme.pteSize

/-- The A and D bits the access needs (R562). -/
def adBits (kind : AccKind) : Word := if kind = .store then 0xC0#64 else 0x40#64

/-- The address bits a level resolves to: the offset within its page size. -/
def levelShift (sc : Scheme) (level : Nat) : Nat := 12 + sc.vpnBits * level

/-- The index into the table at `level`; the root of the G-stage is wider (R632). -/
def vpnAt (st : Stage) (va level : Nat) : Nat :=
  let width := st.scheme.vpnBits + (if level + 1 = st.scheme.levels then st.extra else 0)
  (va >>> levelShift st.scheme level) % 2 ^ width

/-- Step 8: the physical address of a leaf at `level` (R552, R563). -/
def leafAddr (sc : Scheme) (level va : Nat) (p : Word) : Nat :=
  let sh := levelShift sc level
  (leafPpn sc p va >>> (sc.vpnBits * level)) <<< sh + va % 2 ^ sh

/-- What an entry value is to a walk. -/
inductive PteClass where
  | bad
  | pointer
  | leaf
deriving DecidableEq, Repr

/-- Steps 3 to 6 on the value read at `level` (R552, R556, R561, R563). A speculative walk stands for an access of any
kind, so it does not look at the permissions of a leaf of `satp` or `vsatp`; what it reads by the G-stage must be readable
there (R635). -/
def State.classify (s : State) (w : Walk) (level : Nat) (p : Word) : PteClass :=
  if !pteV p || s.pteReserved w.stage level p then .bad
  else if !pteLeaf p then .pointer
  else if !((w.spec && w.stage.kind != .g) || leafPermits w.stage w.kind w.hlvx p) then .bad
  else if ptePpn w.stage.scheme p % 2 ^ (w.stage.scheme.vpnBits * level) ≠ 0 then .bad
  else .leaf

/-- How one level of a walk ends: at the translation, or at the table of the next level. -/
inductive LevelEnd where
  | found (m : Mapping)
  | pointer (table : Nat) (glob : Bool)
deriving DecidableEq, Repr

/-- Steps 3 to 8 on the value `p` (R552): a leaf whose A and D bits do not suffice is a page fault, or is updated by
`update` (R562). A speculative walk, which sets no A bit (log 31), ends where one would be set (R573). -/
def walkOn (w : Walk) (level : Nat) (glob : Bool) (p : Word) (update : State → Res LevelEnd) (s : State) :
    Res LevelEnd :=
  match s.classify w level p with
  | .bad => .exn w.pf s
  | .pointer => .ok (.pointer (ptePpn w.stage.scheme p * 4096) (glob || pteG p)) s
  | .leaf =>
    if p &&& adBits w.kind = adBits w.kind then
      .ok (.found { pa := leafAddr w.stage.scheme level w.va p, pbmt := ptePbmt p }) s
    else
      match s.cfg.adUpdate with
      | .fault => .exn w.pf s
      | .hardware => if w.spec then .exn w.pf s else update s

/-- Write the entry at `pa` back with its A and D bits set, and end the walk there (steps 7 and 8). -/
def writeBack (w : Walk) (level pa : Nat) (p : Word) (s : State) : Res LevelEnd :=
  .ok (.found { pa := leafAddr w.stage.scheme level w.va p, pbmt := ptePbmt p })
    (s.writePhysN w.stage.bigEndian pa w.stage.scheme.pteSize (p ||| adBits w.kind))

/-- Step 2 in memory and what follows (R552): the entry found at `m` is read, may be added to the cache (R570), and
`update` handles its A and D bits. -/
def walkRead (w : Walk) (level q : Nat) (glob : Bool) (m : Mapping) (update : Word → State → Res LevelEnd)
    (s : State) : Res LevelEnd :=
  if !s.ptwAllowed w m false then .exn w.af s
  else
    let p := s.readPte w.stage m.pa
    walkOn w level glob p (update p) (s.fillTc w.stage q w.va (levelShift w.stage.scheme level) glob p w.spec)

/-- The hardware A/D update of the entry at `q`, read as `p` (R562): the compare and write, or `again` where the compare
fails. `toPhys` maps the address of an entry to a supervisor physical address (the identity, or the G-stage for VS-stage
entries, R643). -/
def walkUpdate (w : Walk) (toPhys : State → Nat → Bool → Res Mapping) (level q : Nat)
    (again : Mapping → State → Res LevelEnd) (p : Word) (s : State) : Res LevelEnd :=
  (toPhys s q true).bind fun m t =>
    if !t.ptwAllowed w m true then .exn w.af t
    else if t.readPte w.stage m.pa = p then writeBack w level m.pa p t
    else again m t

/-- One pass of steps 2 to 8 over the entry at `q` (R552), whose value comes from the cache, without an access to
memory, or from memory. -/
def walkPass (w : Walk) (toPhys : State → Nat → Bool → Res Mapping) (level q : Nat) (glob : Bool)
    (again : Mapping → State → Res LevelEnd) (s : State) : Res LevelEnd :=
  let drawn := s.drawPte w.stage q w.va (levelShift w.stage.scheme level)
  match drawn.1 with
  | some p => walkOn w level glob p (walkUpdate w toPhys level q again p) drawn.2
  | none =>
    (toPhys drawn.2 q false).bind fun m t => walkRead w level q glob m (walkUpdate w toPhys level q again) t

/-- Steps 2 to 8 on the entry at `q` (R552). A failed compare returns to step 2 (R562, D42), which may again find an old
value in the cache; after a second failure it reads memory where the update was to be made, so that its compare succeeds
(log 11). -/
def walkEntry (w : Walk) (toPhys : State → Nat → Bool → Res Mapping) (level q : Nat) (glob : Bool) (s : State) :
    Res LevelEnd :=
  walkPass w toPhys level q glob
    (fun _ t =>
      walkPass w toPhys level q glob
        (fun m u => walkRead w level q glob m (fun p v => writeBack w level m.pa p v) u) t) s

/-- Steps 2 to 8 from `level` down, with the table of that level at `a` (R552); a pointer at level 0 is a page
fault. -/
def walkFrom (w : Walk) (toPhys : State → Nat → Bool → Res Mapping) : Nat → Nat → Bool → State → Res Mapping
  | 0, a, glob, s =>
    (walkEntry w toPhys 0 (a + vpnAt w.stage w.va 0 * w.stage.scheme.pteSize) glob s).bind fun e t =>
      match e with
      | .found m => .ok m t
      | .pointer _ _ => .exn w.pf t
  | below + 1, a, glob, s =>
    (walkEntry w toPhys (below + 1) (a + vpnAt w.stage w.va (below + 1) * w.stage.scheme.pteSize) glob s).bind
      fun e t =>
        match e with
        | .found m => .ok m t
        | .pointer table g => walkFrom w toPhys below table g t

/-- Steps 1 to 8 (R552). -/
def walkRoot (w : Walk) (toPhys : State → Nat → Bool → Res Mapping) (s : State) : Res Mapping :=
  walkFrom w toPhys (w.stage.scheme.levels - 1) w.stage.root false s

/-- The canonical-address check (R553). -/
def canonical (sc : Scheme) (va : Word) : Bool :=
  if sc.pteSize = 4 then true
  else
    let top := va.toNat >>> (sc.vaBits - 1)
    top == 0 || top == 2 ^ (65 - sc.vaBits) - 1

/-- The address as a scheme translates it: the addresses of Sv32 have 32 bits, so that bits 63:32 of one from a 64-bit
U-mode above Sv32 count for nothing (R553; DESIGN CHOICE, log 28). -/
def Scheme.vaOf (sc : Scheme) (va : Word) : Nat := if sc.pteSize = 4 then va.toNat % 2 ^ 32 else va.toNat

/-- The stage `satp` controls (R550). -/
def State.hsStage (s : State) (sc : Scheme) (p : Priv) : Stage :=
  { kind := .hs, scheme := sc, extra := 0, root := atpPpn s.sxlen s.s.atp * 4096
    asid := atpAsid s.sxlen s.s.atp, vmid := 0, bigEndian := s.sbe
    pbmte := s.cfg.svpbmt && s.m.pbmte, priv := p, sum := s.mstatus.sum, mxr := s.mstatus.mxr }

/-- The stage `vsatp` controls (R643, R640, R645). -/
def State.vsStage (s : State) (sc : Scheme) (p : Priv) : Stage :=
  { kind := .vs, scheme := sc, extra := 0, root := atpPpn s.vsxlen s.vs.atp * 4096
    asid := atpAsid s.vsxlen s.vs.atp, vmid := s.vmid, bigEndian := s.vsbe
    pbmte := s.cfg.svpbmt && s.m.pbmte && s.h.pbmte, priv := p
    sum := s.vs.status.sum, mxr := s.vs.status.mxr || s.mstatus.mxr }

/-- The stage `hgatp` controls (R632, R634, R640, R645): every access is a user access; the root is aligned
to 16 KiB (R381). -/
def State.gStage (s : State) (sc : Scheme) : Stage :=
  { kind := .g, scheme := sc, extra := 2, root := atpPpn s.sxlen s.h.gatp / 4 * 4 * 4096
    asid := 0, vmid := s.vmid, bigEndian := s.sbe
    pbmte := s.cfg.svpbmt && s.m.pbmte, priv := .user, sum := false, mxr := s.mstatus.mxr }

/-- G-stage translation of `gpa` (R630, R632 to R635). -/
def State.gTranslate (s : State) (gpa : Nat) (kind : AccKind) (hlvx : Bool) (implicit : Option Bool)
    (o : Orig) (spec : Bool) : Res Mapping :=
  match schemeOf s.sxlen s.h.gatp with
  | none => .ok { pa := gpa, pbmt := 0 } s
  | some sc =>
    let pf := o.guestFault gpa implicit
    if 2 ^ (sc.vaBits + 2) ≤ gpa then .exn pf s
    else
      walkRoot { stage := s.gStage sc, kind := kind, hlvx := hlvx, va := gpa, pf := pf
                 af := o.accessFault, spec := spec }
        (fun t q _ => .ok { pa := q, pbmt := 0 } t) s

/-- VS-stage translation of a guest virtual address (R642, R643). -/
def State.vsTranslate (s : State) (kind : AccKind) (hlvx : Bool) (p : Priv) (o : Orig) (spec : Bool) :
    Res Mapping :=
  match schemeOf s.vsxlen s.vs.atp with
  | none => .ok { pa := o.va.toNat, pbmt := 0 } s
  | some sc =>
    if !canonical sc o.va then .exn o.pageFault s
    else
      walkRoot { stage := s.vsStage sc p, kind := kind, hlvx := hlvx
                 va := sc.vaOf o.va, pf := o.pageFault
                 af := o.accessFault, spec := spec }
        (fun t q isWrite =>
          t.gTranslate q (if isWrite then .store else .load) false (some isWrite) o spec) s

/-- Where an access lands: the physical address and the PBMT of each stage (R593). -/
structure Target where
  pa : Nat
  gPbmt : Nat
  sPbmt : Nat
deriving DecidableEq, Repr

/-- The scheme of single-stage translation; none without S-mode (R550). -/
def State.hsScheme (s : State) : Option Scheme := if s.hasS then schemeOf s.sxlen s.s.atp else none

/-- Single-stage translation (R550, R552). -/
def State.translate1 (s : State) (kind : AccKind) (hlvx : Bool) (p : Priv) (o : Orig) (spec : Bool) :
    Res Target :=
  match s.hsScheme with
  | none => .ok { pa := o.va.toNat, gPbmt := 0, sPbmt := 0 } s
  | some sc =>
    if !canonical sc o.va then .exn o.pageFault s
    else
      (walkRoot { stage := s.hsStage sc p, kind := kind, hlvx := hlvx
                  va := sc.vaOf o.va, pf := o.pageFault
                  af := o.accessFault, spec := spec }
        (fun t q _ => .ok { pa := q, pbmt := 0 } t) s).bind
        fun m t => .ok { pa := m.pa, gPbmt := 0, sPbmt := m.pbmt } t

/-- Two-stage translation (R630). -/
def State.translate2 (s : State) (kind : AccKind) (hlvx : Bool) (p : Priv) (o : Orig) (spec : Bool) :
    Res Target :=
  (s.vsTranslate kind hlvx p o spec).bind fun m s1 =>
    (s1.gTranslate m.pa kind hlvx none o spec).bind fun g s2 =>
      .ok { pa := g.pa, gPbmt := g.pbmt, sPbmt := m.pbmt } s2

/-- Step 4 of the pipeline (R500): M-mode is never translated (R550). -/
def State.translate (s : State) (kind : AccKind) (hlvx : Bool) (p : Priv) (v : Bool) (o : Orig) : Res Target :=
  match p, v with
  | .machine, _ => .ok { pa := o.va.toNat, gPbmt := 0, sPbmt := 0 } s
  | _, false => s.translate1 kind hlvx p o false
  | _, true => s.translate2 kind hlvx p o false

/-- `satp` is active: the effective mode is S or U, and V is 0 there (R311, R573, R978). -/
def State.satpActive (s : State) : Bool := s.hasS && s.dataMode.1 != .machine && !s.dataMode.2

/-- `vsatp` is active unless the effective mode is U and HU = 0 (R407). -/
def State.vsatpActive (s : State) : Bool := s.hasH && (s.dataMode != (.user, false) || s.h.status.hu)

/-- A speculative translation (R573, R661) may start while its register is active; it changes only the
cache. -/
def State.speculate (s : State) (k : SpecWalk) : State :=
  let o : Orig := { kind := .load, va := k.va, guest := k.virt, ea := k.va }
  let after (r : Res Target) : State :=
    match r with
    | .ok _ t => { s with tc := t.tc, draws := t.draws }
    | .exn _ t => { s with tc := t.tc, draws := t.draws }
  if !s.cfg.tcRefill then s
  else if k.virt then (if s.vsatpActive then after (s.translate2 .load false .supervisor o true) else s)
  else if s.satpActive then after (s.translate1 .load false .supervisor o true)
  else s

/-! ## Fences on the cache (R571, R656 to R658) -/

/-- Which entries a fence selects: an address and an address space, each possibly all. -/
structure FenceSel where
  addr : Option Nat
  space : Option Nat
deriving DecidableEq, Repr

/-- An entry that ends a walk, whose mapped range holds the address: what a fence with an address selects. R571 names
leaf entries; that an invalid or reserved entry counts among them is the model's (DESIGN CHOICE, log 51). -/
def TcEntry.covers (e : TcEntry) (a : Nat) : Bool :=
  e.leaf && (a >>> e.fenceShift == (e.pre <<< e.shift) >>> e.fenceShift)

/-- The four cases of R571 on one entry. -/
def TcEntry.selected (e : TcEntry) (sel : FenceSel) : Bool :=
  (match sel.addr with
    | none => true
    | some a => e.covers a)
  && (match sel.space with
      | none => true
      | some n => e.asid == n && !e.isGlobal)

/-- A fence of everything: no address and no address space named. -/
def FenceSel.all (sel : FenceSel) : Bool := sel.addr.isNone && sel.space.isNone

/-- SFENCE.VMA with V = 0: the HS-level entries selected (R571, R656), and with no operand the cached PMP results of
accesses with V = 0 (R481, R660). -/
def State.fenceHs (s : State) (sel : FenceSel) : State :=
  { s with
    tc := s.tc.filter fun e => !(e.kind == .hs && e.selected sel)
    pmpStale := if sel.all then [] else s.pmpStale }

/-- SFENCE.VMA with V = 1 and HFENCE.VVMA: the VS-stage entries of the current VMID (R656, R657). -/
def State.fenceVs (s : State) (sel : FenceSel) : State :=
  let vm := s.vmid
  { s with tc := s.tc.filter fun e => !(e.kind == .vs && e.vmid == vm && e.selected sel) }

/-- HFENCE.GVMA: the G-stage entries of the VMID and guest physical page (R658), and with no operand the cached PMP
results of guest accesses (R660). With an address only entries that end a walk go, as R571 has it for SFENCE.VMA; R658 and
R841 do not say whether pointer entries on the path go too, and the model keeps them (DESIGN CHOICE, log 51). -/
def State.fenceG (s : State) (sel : FenceSel) : State :=
  { s with
    tc := s.tc.filter fun e =>
      !(e.kind == .g
        && (match sel.addr with
            | none => true
            | some a => e.covers a)
        && (match sel.space with
            | none => true
            | some n => e.vmid == n))
    pmpStaleG := if sel.all then [] else s.pmpStaleG }

end Sys2Proof.Machine
end

