-- ==== Sys2Proof/Machine/Access.lean ====
section
/-! DEFINITION. The pipeline every memory access goes through (20_memory.md R500 to R507): effective mode,
address width, alignment, translation, PMP, PMA, and the access itself. -/

namespace Sys2Proof.Machine

open Sys2Proof

/-- An access: its kind, its size and its attributes (R500). -/
structure Acc where
  kind : AccKind
  n : Nat
  hlv : Bool := false
  hlvx : Bool := false
  atomic : AtomicKind := .plain
deriving DecidableEq, Repr

/-- The effective privilege and virtualization mode (R501). -/
def State.effMode (s : State) (a : Acc) : Priv × Bool :=
  if a.hlv then (if s.h.status.spvp then .supervisor else .user, true)
  else if a.kind = .fetch then (s.priv, s.virt)
  else s.dataMode

/-- The byte order of explicit accesses in a mode (R455, R124, R341, R394). -/
def State.bigEndianIn (s : State) (p : Priv) (v : Bool) : Bool :=
  match p, v with
  | .machine, _ => s.mbe
  | .supervisor, false => s.sbe
  | .user, false => s.ube
  | .supervisor, true => s.vsbe
  | .user, true => s.vube

/-- The byte order of an access; a fetch is always little-endian (R455). -/
def State.bigEndian (s : State) (a : Acc) : Bool :=
  if a.kind = .fetch then false else s.bigEndianIn (s.effMode a).1 (s.effMode a).2

/-- The permissions an access needs of PMP and PMA (R480, R500, R826). -/
def Acc.need (a : Acc) : Need :=
  match a.kind with
  | .fetch => { r := false, w := false, x := true }
  | .load => { r := true, w := false, x := a.hlvx }
  | .store =>
    match a.atomic with
    | .amo _ => { r := true, w := true, x := false }
    | _ => { r := false, w := true, x := false }

/-- The address as used: modulo 2^XLEN of the effective mode, zero-extended (R502). -/
def State.accAddr (s : State) (a : Acc) (va : Word) : Word :=
  zxTo (s.xlenOf (s.effMode a).1 (s.effMode a).2) va

/-- What exceptions of this access report; `va` is the portion being handled. -/
def State.origOf (s : State) (a : Acc) (ea va : Word) : Orig :=
  { kind := a.kind, va := va, guest := (s.effMode a).2, ea := ea }

/-- The address-misaligned exception of an access (R505). -/
def State.misalignedExcn (s : State) (a : Acc) (va : Word) : Excn :=
  { code := if a.kind = .store then .storeMisaligned else .loadMisaligned
    tval := va, guest := (s.effMode a).2, ea := va }

/-- The region at `n` bytes of a target, with the attributes that its pages request (R590, R593). An aligned access whose
bytes lie in two regions has none (DESIGN CHOICE, log 30); a misaligned one is checked byte by byte (log 22). -/
def State.regionAt (s : State) (t : Target) (n : Nat) : Option PmaRegion :=
  (s.pmaRegion t.pa n).map fun r => overridePbmt t.sPbmt (overridePbmt t.gPbmt r)

/-- Steps 5 and 6 of R500 on `n` bytes at a target, for an access of width `width`. -/
def State.physAllowed (s : State) (a : Acc) (p : Priv) (t : Target) (n width : Nat) : Bool :=
  s.pmpAllowed (s.effMode a).2 t.pa n a.need p
    && (match s.regionAt t n with
        | none => false
        | some r => pmaAllows r width a.need a.atomic)

/-- Steps 4 to 6 of R500 for the `n` bytes at `va`, all in one page: the physical address. -/
def State.locate (s : State) (a : Acc) (ea va : Word) (n : Nat) : Res Nat :=
  let m := s.effMode a
  let o := s.origOf a ea va
  (s.translate a.kind a.hlvx m.1 m.2 o).bind fun t s1 =>
    if s1.physAllowed a m.1 t n a.n then .ok t.pa s1 else .exn o.accessFault s1

/-- Byte `k` of a target. -/
def Target.byte (t : Target) (k : Nat) : Target := { t with pa := t.pa + k }

/-- The `n` bytes from `off` upward of a misaligned access, all in one page: translated once, then checked one by one;
the lowest that fails is reported (R505, R566, D39). -/
def State.locatePortion (s : State) (a : Acc) (ea : Word) (off n : Nat) : Res (List Target) :=
  let m := s.effMode a
  let va (k : Nat) : Word := s.accAddr a (ea + BitVec.ofNat 64 (off + k))
  (s.translate a.kind a.hlvx m.1 m.2 (s.origOf a ea (va 0))).bind fun t s1 =>
    match (List.range n).find? fun k => !s1.physAllowed a m.1 (t.byte k) 1 a.n with
    | none => .ok ((List.range n).map t.byte) s1
    | some k => .exn (s.origOf a ea (va k)).accessFault s1

/-- Every byte of a misaligned access, one translation for each page touched (R505, R566). -/
def State.locateBytes (s : State) (a : Acc) (ea : Word) : Res (List Target) :=
  let first := min a.n (4096 - ea.toNat % 4096)
  (s.locatePortion a ea 0 first).bind fun l s1 =>
    if first = a.n then .ok l s1
    else (s1.locatePortion a ea first (a.n - first)).bind fun r s2 => .ok (l ++ r) s2

/-- A plain misaligned access of this width and kind completes in the region (R454, R505). -/
def misalignedIn (r : PmaRegion) (kind : AccKind) (n : Nat) : Bool :=
  if kind = .store then r.misalignedWrite.contains n else r.misalignedRead.contains n

/-- The regions of all these bytes let the misaligned access complete; an atomic one never does (R459, R505). That an
access whose bytes lie in two regions needs both is the model's: the spec has no rule for it (DESIGN CHOICE, log 22). -/
def State.misalignedOk (s : State) (a : Acc) (l : List Target) : Bool :=
  a.atomic == .plain && l.all fun t =>
    match s.regionAt t 1 with
    | none => false
    | some r => misalignedIn r a.kind a.n

/-- A region answers a refused misaligned access with an access fault: the platform says so, or accesses there are not
idempotent (R459, R464), or a plain access of that address and width would complete beside an atomic one (R459). -/
def misalignedFaultIn (r : PmaRegion) (a : Acc) : Bool :=
  r.misalignedFaults
    || (!r.idempotentRead && (a.kind != .store || a.atomic != .plain))
    || (!r.idempotentWrite && (a.kind == .store || a.atomic != .plain))
    || (a.atomic != .plain && (misalignedIn r .load a.n || misalignedIn r .store a.n))

/-- Some region of these bytes answers the refused access with an access fault: one is enough where they lie in two
regions (DESIGN CHOICE, log 22). -/
def State.misalignedFault (s : State) (a : Acc) (l : List Target) : Bool :=
  l.any fun t =>
    match s.regionAt t 1 with
    | none => false
    | some r => misalignedFaultIn r a

/-- The `n` addresses from `pa` upward. -/
def addrsFrom (pa : Nat) : Nat → List Nat
  | 0 => []
  | n + 1 => pa :: addrsFrom (pa + 1) n

/-- A misaligned access is refused before translation (R873): `MISALIGNED_PRIORITY` is `first` and no region lets one of
this kind and width complete. An atomic one is not, where plain ones of its width complete: it may then raise no
address-misaligned exception (R459). -/
def State.refusedEarly (s : State) (a : Acc) : Bool :=
  s.cfg.misalignedPriority == .first
    && !s.cfg.pma.any fun r =>
      if a.atomic = .plain then misalignedIn r a.kind a.n else misalignedIn r .load a.n || misalignedIn r .store a.n

/-- Steps 1 to 6 of R500: the physical address of every byte of the access, in address order. A misaligned
access is refused before translation or after it, as `MISALIGNED_PRIORITY` says (R873). The access fault of a refused one
reports where the access starts, also where the region of a later byte refuses it (DESIGN CHOICE, log 22). -/
def State.resolve (s : State) (a : Acc) (va0 : Word) : Res (List Nat) :=
  let va := s.accAddr a va0
  if a.kind = .fetch ∨ va.toNat % a.n = 0 then
    (s.locate a va va a.n).bind fun pa s1 => .ok (addrsFrom pa a.n) s1
  else if s.refusedEarly a then .exn (s.misalignedExcn a va) s
  else
    (s.locateBytes a va).bind fun l s1 =>
      if s1.misalignedOk a l then .ok (l.map (·.pa)) s1
      else if s1.misalignedFault a l then .exn (s.origOf a va va).accessFault s1
      else .exn (s.misalignedExcn a va) s1

/-- The bytes at a list of physical addresses. -/
def State.readAt (s : State) (pas : List Nat) : List Byte := pas.map s.readPhys

/-- Write bytes to a list of physical addresses. -/
def State.writeAt (s : State) : List Nat → List Byte → State
  | pa :: pas, b :: bs => (s.writePhys pa b).writeAt pas bs
  | _, _ => s

/-- A load: steps 1 to 7 of R500. -/
def State.load (s : State) (a : Acc) (va : Word) : Res Word :=
  (s.resolve a va).bind fun pas s1 => .ok (ofBytes (inOrder (s.bigEndian a) (s1.readAt pas))) s1

/-- A store: steps 1 to 7 of R500. -/
def State.store (s : State) (a : Acc) (va v : Word) : Res Unit :=
  (s.resolve a va).bind fun pas s1 => .ok () (s1.writeAt pas (inOrder (s.bigEndian a) (bytesLE v a.n)))

/-- The access of a load-reserved, which leaves the reservation of D43 (R507, R569). No instruction of the
table makes it (R1007). -/
def State.loadReserved (s : State) (n : Nat) (va : Word) : Res Word :=
  let a : Acc := { kind := .load, n := n, atomic := .lr }
  (s.resolve a va).bind fun pas s1 =>
    .ok (ofBytes (inOrder (s.bigEndian a) (s1.readAt pas)))
      { s1 with reservation := some { base := pas.headD 0 / n * n, size := n } }

/-- One parcel of an instruction fetch at `va`, `n` bytes (R503). -/
def State.fetchParcel (s : State) (va : Word) (n : Nat) : Res (List Byte) :=
  (s.resolve { kind := .fetch, n := n } va).bind fun pas s1 => .ok (s1.readAt pas) s1

/-- The bytes of the instruction at `pc`: 4 at once while IALIGN = 32, else parcel by parcel (R503). -/
def State.fetch (s : State) : Res (List Byte) :=
  if !s.hasC then s.fetchParcel s.pc 4
  else
    (s.fetchParcel s.pc 2).bind fun lo s1 =>
      match lo with
      | [b0, b1] =>
        if isCompressed (halfOfBytes b0 b1) then .ok lo s1
        else (s1.fetchParcel (s1.pc + 2) 2).bind fun hi s2 => .ok (lo ++ hi) s2
      | _ => .ok lo s1

/-- Where the fetch of one parcel of `n` bytes lands; the address itself where the fetch would fault. -/
def State.parcelAddrs (s : State) (va : Word) (n : Nat) : List Nat :=
  match s.resolve { kind := .fetch, n := n } va with
  | .ok pas _ => pas
  | .exn _ _ => addrsFrom va.toNat n

/-- The physical addresses the next fetch reads (R503). -/
def State.fetchAddrs (s : State) : List Nat :=
  if !s.hasC then s.parcelAddrs s.pc 4 else s.parcelAddrs s.pc 2 ++ s.parcelAddrs (s.pc + 2) 2

end Sys2Proof.Machine
end

