-- ==== Sys2Proof/Machine/Fence.lean ====
section
/-! DEFINITION. The fences: SFENCE.VMA (42_supervisor_instructions.md R785), the Svinval instructions
(43_svinval_instructions.md R801 to R807), HFENCE.VVMA and HFENCE.GVMA (44_hypervisor_instructions.md R840,
R841), FENCE and FENCE.I (45_base_isa_subset.md R1005, 20_memory.md R484). -/

namespace Sys2Proof.Machine

open Sys2Proof

/-- Permission of SFENCE.VMA and SINVAL.VMA (R785, R801). -/
def State.sfencePermit (s : State) : Permit :=
  if !s.hasS || (s.cfg.sfenceBareIllegal && !s.pagedMode) then .illegal
  else
    match s.priv, s.virt with
    | .machine, _ => .ok
    | .supervisor, false => if s.mstatus.tvm then .illegal else .ok
    | .user, false => .illegal
    | .supervisor, true => if s.h.status.vtvm then .virt else .ok
    | .user, true => .virt

/-- Permission of HFENCE.VVMA and HINVAL.VVMA (R804, R840). -/
def State.hfenceVPermit (s : State) : Permit :=
  if !s.hasH then .illegal
  else if s.virt then .virt
  else if s.priv = .user then .illegal
  else .ok

/-- Permission of HFENCE.GVMA and HINVAL.GVMA (R805, R841). -/
def State.hfenceGPermit (s : State) : Permit :=
  if !s.hasH then .illegal
  else if s.virt then .virt
  else
    match s.priv with
    | .user => .illegal
    | .supervisor => if s.mstatus.tvm then .illegal else .ok
    | .machine => .ok

/-- Permission of SFENCE.W.INVAL and SFENCE.INVAL.IR (R807, D51); they need Svinval alone (R688). -/
def State.fenceInvalPermit (s : State) : Permit :=
  if s.priv = .user then (if s.virt then .virt else .illegal)
  else .ok

/-- The Svinval instructions are illegal where the extension is absent (R800). -/
def State.ifSvinval (s : State) (p : Permit) : Permit := if s.cfg.svinval then p else .illegal

/-- The address operand of a fence, cut to the width of the addresses it fences (DESIGN CHOICE, log 43): `x0` by its
specifier means all addresses (R785). -/
def State.fenceAddr (s : State) (xl : Xlen) (rs1 : RegIdx) : Option Word :=
  if rs1 = 0 then none else some (zxTo xl (s.src rs1))

/-- The address-space operand, cut to the implemented bits; `x0` by its specifier means all (R785, R841). -/
def State.fenceSpace (s : State) (bits : Nat) (rs2 : RegIdx) : Option Nat :=
  if rs2 = 0 then none else some (bitsAt (s.src rs2) 0 bits)

/-- Implemented ASID bits at a width (R310). -/
def State.asidBits (s : State) (xl : Xlen) : Nat :=
  match xl with
  | .x32 => min s.cfg.asidLen 9
  | .x64 => min s.cfg.asidLen 16

/-- Implemented VMID bits (R381). -/
def State.vmidBits (s : State) : Nat :=
  match s.sxlen with
  | .x32 => min s.cfg.vmidLen 7
  | .x64 => min s.cfg.vmidLen 14

/-- The address is valid under the scheme a register selects (R553, R785). -/
def validAddr (xl : Xlen) (atp : Word) : Option Word → Bool
  | none => true
  | some a =>
    match schemeOf xl atp with
    | none => true
    | some sc => canonical sc a

/-- The VS-stage fence of SFENCE.VMA with V = 1 and of HFENCE.VVMA: the current VMID only; an invalid address
has no effect (R656, R657, R785, R840; log 29). -/
def State.fenceGuest (s : State) (rs1 rs2 : RegIdx) : State :=
  let a := s.fenceAddr s.vsxlen rs1
  if validAddr s.vsxlen s.vs.atp a then
    s.fenceVs { addr := a.map (·.toNat), space := s.fenceSpace (s.asidBits s.vsxlen) rs2 }
  else s

/-- The effect of SFENCE.VMA (R785): HS-level with V = 0, VS-stage with V = 1. -/
def State.sfence (s : State) (rs1 rs2 : RegIdx) : State :=
  if s.virt then s.fenceGuest rs1 rs2
  else
    let a := s.fenceAddr s.sxlen rs1
    if validAddr s.sxlen s.s.atp a then
      s.fenceHs { addr := a.map (·.toNat), space := s.fenceSpace (s.asidBits s.sxlen) rs2 }
    else s

/-- The effect of HFENCE.GVMA (R841): `x[rs1]` holds the guest physical address shifted right by 2. -/
def State.fenceGpa (s : State) (rs1 rs2 : RegIdx) : State :=
  s.fenceG { addr := (s.fenceAddr s.xlen rs1).map (fun a => a.toNat <<< 2), space := s.fenceSpace s.vmidBits rs2 }

/-- SFENCE.VMA (R785). -/
def execSfenceVma (rs1 rs2 : RegIdx) (s : State) : Out :=
  s.guarded (encode (.sfenceVma rs1 rs2)) s.sfencePermit fun s => .next (s.sfence rs1 rs2).retire

/-- SINVAL.VMA (R801, D50): as SFENCE.VMA. -/
def execSinvalVma (rs1 rs2 : RegIdx) (s : State) : Out :=
  s.guarded (encode (.sinvalVma rs1 rs2)) (s.ifSvinval s.sfencePermit) fun s => .next (s.sfence rs1 rs2).retire

/-- SFENCE.W.INVAL (R802): ordering only. -/
def execSfenceWInval (s : State) : Out :=
  s.guarded (encode .sfenceWInval) (s.ifSvinval s.fenceInvalPermit) fun s => .next s.retire

/-- SFENCE.INVAL.IR (R803): ordering only, the invalidations being applied at once. -/
def execSfenceInvalIr (s : State) : Out :=
  s.guarded (encode .sfenceInvalIr) (s.ifSvinval s.fenceInvalPermit) fun s => .next s.retire

/-- HFENCE.VVMA (R840). -/
def execHfenceVvma (rs1 rs2 : RegIdx) (s : State) : Out :=
  s.guarded (encode (.hfenceVvma rs1 rs2)) s.hfenceVPermit fun s => .next (s.fenceGuest rs1 rs2).retire

/-- HFENCE.GVMA (R841). -/
def execHfenceGvma (rs1 rs2 : RegIdx) (s : State) : Out :=
  s.guarded (encode (.hfenceGvma rs1 rs2)) s.hfenceGPermit fun s => .next (s.fenceGpa rs1 rs2).retire

/-- HINVAL.VVMA (R804). -/
def execHinvalVvma (rs1 rs2 : RegIdx) (s : State) : Out :=
  s.guarded (encode (.hinvalVvma rs1 rs2)) (s.ifSvinval s.hfenceVPermit) fun s =>
    .next (s.fenceGuest rs1 rs2).retire

/-- HINVAL.GVMA (R805). -/
def execHinvalGvma (rs1 rs2 : RegIdx) (s : State) : Out :=
  s.guarded (encode (.hinvalGvma rs1 rs2)) (s.ifSvinval s.hfenceGPermit) fun s =>
    .next (s.fenceGpa rs1 rs2).retire

/-- The FIOM bit that applies to a FENCE in the mode executing (R186, R296, R360). -/
def State.fiom (s : State) : Bool :=
  (s.priv != .machine && s.m.fiom) || (decide (s.priv = .user) && s.s.fiom) || (s.virt && s.h.fiom)

/-- A predecessor or successor set `I O R W` with I implying R and O implying W (R484). -/
def fiomSet (on : Bool) (set : BitVec 4) : BitVec 4 :=
  if on then set ||| (set >>> 2) else set

/-- Order the accesses of the predecessor set before those of the successor set. One hart runs its accesses in
program order, so nothing changes (R484, D37; log 20). -/
def State.orderAccesses (s : State) (_pred _succ : BitVec 4) : State := s

/-- FENCE (R484, R1005): the fields `fm`, `rs1` and `rd` have no effect. -/
def execFence (_fm pred succ : BitVec 4) (_rs1 _rd : RegIdx) (s : State) : Out :=
  .next (s.orderAccesses (fiomSet s.fiom pred) (fiomSet s.fiom succ)).retire

/-- FENCE.I (R980, R1005, D62): a fetch reads the memory that stores write, so nothing is left to do. -/
def execFenceI (_imm : BitVec 12) (_rs1 _rd : RegIdx) (s : State) : Out := .next s.retire

end Sys2Proof.Machine
end

