-- ==== Sys2Proof/Machine/LoadStore.lean ====
section
/-! DEFINITION. Loads and stores (45_base_isa_subset.md R1003) and the two shared operations that every explicit
access of an instruction goes through. -/

namespace Sys2Proof.Machine

open Sys2Proof

/-- An RV64-only instruction is illegal while XLEN is 32 (R1003, R1004). -/
def State.rv64Permit (s : State) : Permit := if s.xlen = .x64 then .ok else .illegal

/-- Load into `rd`, extended by `ext`; on a fault `rd` is not written (R1003). -/
def State.loadTo (s : State) (w : BitVec 32) (a : Acc) (rd : RegIdx) (va : Word) (ext : Word → Word) : Out :=
  match s.load a va with
  | .ok v t => .next (t.writeX rd (ext v)).retire
  | .exn e t => .next (t.takeException w e)

/-- Store the low bytes of `v` (R1003). -/
def State.storeFrom (s : State) (w : BitVec 32) (a : Acc) (va v : Word) : Out :=
  match s.store a va v with
  | .ok _ t => .next t.retire
  | .exn e t => .next (t.takeException w e)

/-- LB (R1003). -/
def execLb (rd rs1 : RegIdx) (imm : BitVec 12) (s : State) : Out :=
  s.loadTo (encode (.lb rd rs1 imm)) { kind := .load, n := 1 } rd (s.effAddr rs1 imm) (sextBytes 1)

/-- LH (R1003). -/
def execLh (rd rs1 : RegIdx) (imm : BitVec 12) (s : State) : Out :=
  s.loadTo (encode (.lh rd rs1 imm)) { kind := .load, n := 2 } rd (s.effAddr rs1 imm) (sextBytes 2)

/-- LW (R1003). -/
def execLw (rd rs1 : RegIdx) (imm : BitVec 12) (s : State) : Out :=
  s.loadTo (encode (.lw rd rs1 imm)) { kind := .load, n := 4 } rd (s.effAddr rs1 imm) (sextBytes 4)

/-- LD (R1003). -/
def execLd (rd rs1 : RegIdx) (imm : BitVec 12) (s : State) : Out :=
  s.guarded (encode (.ld rd rs1 imm)) s.rv64Permit fun s =>
    s.loadTo (encode (.ld rd rs1 imm)) { kind := .load, n := 8 } rd (s.effAddr rs1 imm) (sextBytes 8)

/-- LBU (R1003). -/
def execLbu (rd rs1 : RegIdx) (imm : BitVec 12) (s : State) : Out :=
  s.loadTo (encode (.lbu rd rs1 imm)) { kind := .load, n := 1 } rd (s.effAddr rs1 imm) (zextBytes 1)

/-- LHU (R1003). -/
def execLhu (rd rs1 : RegIdx) (imm : BitVec 12) (s : State) : Out :=
  s.loadTo (encode (.lhu rd rs1 imm)) { kind := .load, n := 2 } rd (s.effAddr rs1 imm) (zextBytes 2)

/-- LWU (R1003). -/
def execLwu (rd rs1 : RegIdx) (imm : BitVec 12) (s : State) : Out :=
  s.guarded (encode (.lwu rd rs1 imm)) s.rv64Permit fun s =>
    s.loadTo (encode (.lwu rd rs1 imm)) { kind := .load, n := 4 } rd (s.effAddr rs1 imm) (zextBytes 4)

/-- SB (R1003). -/
def execSb (rs1 rs2 : RegIdx) (imm : BitVec 12) (s : State) : Out :=
  s.storeFrom (encode (.sb rs1 rs2 imm)) { kind := .store, n := 1 } (s.effAddr rs1 imm) (s.src rs2)

/-- SH (R1003). -/
def execSh (rs1 rs2 : RegIdx) (imm : BitVec 12) (s : State) : Out :=
  s.storeFrom (encode (.sh rs1 rs2 imm)) { kind := .store, n := 2 } (s.effAddr rs1 imm) (s.src rs2)

/-- SW (R1003). -/
def execSw (rs1 rs2 : RegIdx) (imm : BitVec 12) (s : State) : Out :=
  s.storeFrom (encode (.sw rs1 rs2 imm)) { kind := .store, n := 4 } (s.effAddr rs1 imm) (s.src rs2)

/-- SD (R1003). -/
def execSd (rs1 rs2 : RegIdx) (imm : BitVec 12) (s : State) : Out :=
  s.guarded (encode (.sd rs1 rs2 imm)) s.rv64Permit fun s =>
    s.storeFrom (encode (.sd rs1 rs2 imm)) { kind := .store, n := 8 } (s.effAddr rs1 imm) (s.src rs2)

end Sys2Proof.Machine
end

