-- ==== Sys2Proof/Machine/HyperMem.lean ====
section
/-! DEFINITION. HLV, HLVX and HSV (44_hypervisor_instructions.md R820 to R839). -/

namespace Sys2Proof.Machine

open Sys2Proof

/-- Permission of the virtual-machine loads and stores (R821); `rv64` marks HLV.WU, HLV.D and HSV.D (R822,
D52). -/
def State.hlvPermit (s : State) (rv64 : Bool) : Permit :=
  if !s.hasH then .illegal
  else if rv64 && decide (s.xlen = .x32) then .illegal
  else if s.virt then .virt
  else if s.priv = .user ∧ !s.h.status.hu then .illegal
  else .ok

/-- HLV.B (R827). -/
def execHlvB (rd rs1 : RegIdx) (s : State) : Out :=
  s.guarded (encode (.hlvB rd rs1)) (s.hlvPermit false) fun s =>
    s.loadTo (encode (.hlvB rd rs1)) { kind := .load, n := 1, hlv := true } rd (s.baseAddr rs1) (sextBytes 1)

/-- HLV.BU (R828). -/
def execHlvBu (rd rs1 : RegIdx) (s : State) : Out :=
  s.guarded (encode (.hlvBu rd rs1)) (s.hlvPermit false) fun s =>
    s.loadTo (encode (.hlvBu rd rs1)) { kind := .load, n := 1, hlv := true } rd (s.baseAddr rs1) (zextBytes 1)

/-- HLV.H (R829). -/
def execHlvH (rd rs1 : RegIdx) (s : State) : Out :=
  s.guarded (encode (.hlvH rd rs1)) (s.hlvPermit false) fun s =>
    s.loadTo (encode (.hlvH rd rs1)) { kind := .load, n := 2, hlv := true } rd (s.baseAddr rs1) (sextBytes 2)

/-- HLV.HU (R830). -/
def execHlvHu (rd rs1 : RegIdx) (s : State) : Out :=
  s.guarded (encode (.hlvHu rd rs1)) (s.hlvPermit false) fun s =>
    s.loadTo (encode (.hlvHu rd rs1)) { kind := .load, n := 2, hlv := true } rd (s.baseAddr rs1) (zextBytes 2)

/-- HLV.W (R831). -/
def execHlvW (rd rs1 : RegIdx) (s : State) : Out :=
  s.guarded (encode (.hlvW rd rs1)) (s.hlvPermit false) fun s =>
    s.loadTo (encode (.hlvW rd rs1)) { kind := .load, n := 4, hlv := true } rd (s.baseAddr rs1) (sextBytes 4)

/-- HLV.WU (R832). -/
def execHlvWu (rd rs1 : RegIdx) (s : State) : Out :=
  s.guarded (encode (.hlvWu rd rs1)) (s.hlvPermit true) fun s =>
    s.loadTo (encode (.hlvWu rd rs1)) { kind := .load, n := 4, hlv := true } rd (s.baseAddr rs1) (zextBytes 4)

/-- HLV.D (R833). -/
def execHlvD (rd rs1 : RegIdx) (s : State) : Out :=
  s.guarded (encode (.hlvD rd rs1)) (s.hlvPermit true) fun s =>
    s.loadTo (encode (.hlvD rd rs1)) { kind := .load, n := 8, hlv := true } rd (s.baseAddr rs1) (sextBytes 8)

/-- HLVX.HU (R834). -/
def execHlvxHu (rd rs1 : RegIdx) (s : State) : Out :=
  s.guarded (encode (.hlvxHu rd rs1)) (s.hlvPermit false) fun s =>
    s.loadTo (encode (.hlvxHu rd rs1)) { kind := .load, n := 2, hlv := true, hlvx := true } rd (s.baseAddr rs1) (zextBytes 2)

/-- HLVX.WU (R835). -/
def execHlvxWu (rd rs1 : RegIdx) (s : State) : Out :=
  s.guarded (encode (.hlvxWu rd rs1)) (s.hlvPermit false) fun s =>
    s.loadTo (encode (.hlvxWu rd rs1)) { kind := .load, n := 4, hlv := true, hlvx := true } rd (s.baseAddr rs1) (zextBytes 4)

/-- HSV.B (R836). -/
def execHsvB (rs1 rs2 : RegIdx) (s : State) : Out :=
  s.guarded (encode (.hsvB rs1 rs2)) (s.hlvPermit false) fun s =>
    s.storeFrom (encode (.hsvB rs1 rs2)) { kind := .store, n := 1, hlv := true } (s.baseAddr rs1) (s.src rs2)

/-- HSV.H (R837). -/
def execHsvH (rs1 rs2 : RegIdx) (s : State) : Out :=
  s.guarded (encode (.hsvH rs1 rs2)) (s.hlvPermit false) fun s =>
    s.storeFrom (encode (.hsvH rs1 rs2)) { kind := .store, n := 2, hlv := true } (s.baseAddr rs1) (s.src rs2)

/-- HSV.W (R838). -/
def execHsvW (rs1 rs2 : RegIdx) (s : State) : Out :=
  s.guarded (encode (.hsvW rs1 rs2)) (s.hlvPermit false) fun s =>
    s.storeFrom (encode (.hsvW rs1 rs2)) { kind := .store, n := 4, hlv := true } (s.baseAddr rs1) (s.src rs2)

/-- HSV.D (R839). -/
def execHsvD (rs1 rs2 : RegIdx) (s : State) : Out :=
  s.guarded (encode (.hsvD rs1 rs2)) (s.hlvPermit true) fun s =>
    s.storeFrom (encode (.hsvD rs1 rs2)) { kind := .store, n := 8, hlv := true } (s.baseAddr rs1) (s.src rs2)

end Sys2Proof.Machine
end

