-- ==== Sys2Proof/Machine/Integer.lean ====
section
/-! DEFINITION. Integer computation (45_base_isa_subset.md R1004). Arithmetic is modulo 2^XLEN with no overflow
trap and no flags (R39, R1001). -/

namespace Sys2Proof.Machine

open Sys2Proof

/-- Write a computed value and go on (R1001). -/
def State.compute (s : State) (rd : RegIdx) (v : Word) : Out := .next (s.writeX rd v).retire

/-- A shift by an immediate: illegal where the shift amount has more bits than XLEN admits (R1004). -/
def State.shiftImm (s : State) (w : BitVec 32) (rd : RegIdx) (sh : BitVec 6) (v : Word) : Out :=
  s.guarded w (if shamtValid s.xlen sh then .ok else .illegal) fun s => s.compute rd v

/-- ADDI (R1004). -/
def execAddi (rd rs1 : RegIdx) (imm : BitVec 12) (s : State) : Out :=
  s.compute rd (s.src rs1 + immOf imm)

/-- SLTI (R1004). -/
def execSlti (rd rs1 : RegIdx) (imm : BitVec 12) (s : State) : Out :=
  s.compute rd (boolWord (ltSigned (s.src rs1) (immOf imm)))

/-- SLTIU (R1004). -/
def execSltiu (rd rs1 : RegIdx) (imm : BitVec 12) (s : State) : Out :=
  s.compute rd (boolWord (ltUnsigned (s.src rs1) (immOf imm)))

/-- XORI (R1004). -/
def execXori (rd rs1 : RegIdx) (imm : BitVec 12) (s : State) : Out :=
  s.compute rd (s.src rs1 ^^^ immOf imm)

/-- ORI (R1004). -/
def execOri (rd rs1 : RegIdx) (imm : BitVec 12) (s : State) : Out :=
  s.compute rd (s.src rs1 ||| immOf imm)

/-- ANDI (R1004). -/
def execAndi (rd rs1 : RegIdx) (imm : BitVec 12) (s : State) : Out :=
  s.compute rd (s.src rs1 &&& immOf imm)

/-- SLLI (R1004). -/
def execSlli (rd rs1 : RegIdx) (shamt : BitVec 6) (s : State) : Out :=
  s.shiftImm (encode (.slli rd rs1 shamt)) rd shamt (shiftLeft s.xlen (s.src rs1) shamt.toNat)

/-- SRLI (R1004). -/
def execSrli (rd rs1 : RegIdx) (shamt : BitVec 6) (s : State) : Out :=
  s.shiftImm (encode (.srli rd rs1 shamt)) rd shamt (shiftRightL s.xlen (s.src rs1) shamt.toNat)

/-- SRAI (R1004). -/
def execSrai (rd rs1 : RegIdx) (shamt : BitVec 6) (s : State) : Out :=
  s.shiftImm (encode (.srai rd rs1 shamt)) rd shamt (shiftRightA s.xlen (s.src rs1) shamt.toNat)

/-- ADD (R1004). -/
def execAdd (rd rs1 rs2 : RegIdx) (s : State) : Out :=
  s.compute rd (s.src rs1 + s.src rs2)

/-- SUB (R1004). -/
def execSub (rd rs1 rs2 : RegIdx) (s : State) : Out :=
  s.compute rd (s.src rs1 - s.src rs2)

/-- SLL (R1004). -/
def execSll (rd rs1 rs2 : RegIdx) (s : State) : Out :=
  s.compute rd (shiftLeft s.xlen (s.src rs1) (s.shiftAmount rs2))

/-- SLT (R1004). -/
def execSlt (rd rs1 rs2 : RegIdx) (s : State) : Out :=
  s.compute rd (boolWord (ltSigned (s.src rs1) (s.src rs2)))

/-- SLTU (R1004). -/
def execSltu (rd rs1 rs2 : RegIdx) (s : State) : Out :=
  s.compute rd (boolWord (ltUnsigned (s.src rs1) (s.src rs2)))

/-- XOR (R1004). -/
def execXor (rd rs1 rs2 : RegIdx) (s : State) : Out :=
  s.compute rd (s.src rs1 ^^^ s.src rs2)

/-- SRL (R1004). -/
def execSrl (rd rs1 rs2 : RegIdx) (s : State) : Out :=
  s.compute rd (shiftRightL s.xlen (s.src rs1) (s.shiftAmount rs2))

/-- SRA (R1004). -/
def execSra (rd rs1 rs2 : RegIdx) (s : State) : Out :=
  s.compute rd (shiftRightA s.xlen (s.src rs1) (s.shiftAmount rs2))

/-- OR (R1004). -/
def execOr (rd rs1 rs2 : RegIdx) (s : State) : Out :=
  s.compute rd (s.src rs1 ||| s.src rs2)

/-- AND (R1004). -/
def execAnd (rd rs1 rs2 : RegIdx) (s : State) : Out :=
  s.compute rd (s.src rs1 &&& s.src rs2)

/-- ADDIW (R1004). -/
def execAddiw (rd rs1 : RegIdx) (imm : BitVec 12) (s : State) : Out :=
  s.guarded (encode (.addiw rd rs1 imm)) s.rv64Permit fun s => s.compute rd (sextBytes 4 (s.src rs1 + immOf imm))

/-- ADDW (R1004). -/
def execAddw (rd rs1 rs2 : RegIdx) (s : State) : Out :=
  s.guarded (encode (.addw rd rs1 rs2)) s.rv64Permit fun s => s.compute rd (sextBytes 4 (s.src rs1 + s.src rs2))

/-- SUBW (R1004). -/
def execSubw (rd rs1 rs2 : RegIdx) (s : State) : Out :=
  s.guarded (encode (.subw rd rs1 rs2)) s.rv64Permit fun s => s.compute rd (sextBytes 4 (s.src rs1 - s.src rs2))

end Sys2Proof.Machine
end

