-- ==== Sys2Proof/Machine/System.lean ====
section
/-! DEFINITION. ECALL, EBREAK, MRET, SRET, WFI (41_machine_instructions.md R750 to R757,
42_supervisor_instructions.md R780). -/

namespace Sys2Proof.Machine

open Sys2Proof

/-- The cause of an environment call (R750). -/
def ecallCode (p : Priv) (v : Bool) : ExcCode :=
  match p, v with
  | .user, _ => .ecallU
  | .supervisor, false => .ecallS
  | .supervisor, true => .ecallVs
  | .machine, _ => .ecallM

/-- ECALL (R750, R752): `xtval` is written zero. -/
def execEcall (s : State) : Out :=
  .next (s.takeException (encode .ecall) { code := ecallCode s.priv s.virt, tval := 0 })

/-- EBREAK (R751, R752): `xtval` is the address of the instruction. -/
def execEbreak (s : State) : Out :=
  .next (s.takeException (encode .ebreak)
    { code := .breakpoint, tval := zxTo s.xlen s.pc, guest := s.virt, ea := zxTo s.xlen s.pc })

/-- Complete an xRET: `pc` takes the saved address at the new mode's width, the instruction counts as retired,
and the reservation may be cleared (R753, R754, R780). -/
def State.completeReturn (s : State) (epc : Word) : State :=
  (s.retireTo (s.epcRead epc)).freeReservation

/-- MRET (R754): only M-mode may execute it; with V = 1 it is not HS-qualified (R753). -/
def execMret (s : State) : Out :=
  s.guarded (encode .mret) (if s.priv = .machine then .ok else .illegal) fun s =>
    .next (s.returnFromM.completeReturn s.m.epc)

/-- Permission of SRET (R780, first table). -/
def State.sretPermit (s : State) : Permit :=
  if !s.hasS then .illegal
  else
    match s.priv, s.virt with
    | .machine, _ => .ok
    | .supervisor, false => if s.mstatus.tsr then .illegal else .ok
    | .user, false => .illegal
    | .supervisor, true => if s.h.status.vtsr then .virt else .ok
    | .user, true => .virt

/-- SRET (R780): its V = 1 form in VS-mode, its V = 0 form elsewhere. -/
def execSret (s : State) : Out :=
  s.guarded (encode .sret) s.sretPermit fun s =>
    if s.virt then .next (s.returnFromVS.completeReturn s.vs.epc)
    else .next (s.returnFromS.completeReturn s.s.epc)

/-- An interrupt is pending and individually enabled: the hart may not stall (R756). -/
def State.wakeRequired (s : State) : Bool := (s.mip &&& s.mie) != 0

/-- What WFI may do (R757): run, or trap unless it completes within `TW_LIMIT`, or trap at once. -/
inductive WfiRule where
  | run
  | limited (p : Permit)
  | trap (p : Permit)
deriving DecidableEq, Repr

/-- `wfi_permission` (R757, the table row by row). -/
def State.wfiRule (s : State) : WfiRule :=
  match s.priv, s.virt with
  | .machine, _ => .run
  | .supervisor, false => if s.mstatus.tw then .limited .illegal else .run
  | .user, false => if s.hasS || s.mstatus.tw then .limited .illegal else .run
  | .supervisor, true =>
    if s.mstatus.tw then .limited .illegal else if s.h.status.vtw then .limited .virt else .run
  | .user, true => if s.mstatus.tw then .limited .illegal else .trap .virt

/-- WFI as it completes (R755, R756): the hart may then stall, a free choice (log 9). -/
def State.waitForInterrupt (s : State) : State :=
  { s.retire with stalled := !s.wakeRequired && Config.freeBit s.draws, draws := s.draws + 1 }

/-- WFI under a time limit (R757): with `TW_LIMIT` = 0 it never completes; otherwise it completes when no stall
is needed, and else by a free choice. -/
def State.wfiWithin (s : State) (p : Permit) : Out :=
  if s.cfg.twLimit = 0 then s.guarded (encode .wfi) p fun s => .next s.retire
  else
    s.drew.guarded (encode .wfi) (if s.wakeRequired || Config.freeBit s.draws then .ok else p) fun s =>
      .next s.retire

/-- WFI (R755 to R757). -/
def execWfi (s : State) : Out :=
  match s.wfiRule with
  | .run => .next s.waitForInterrupt
  | .limited p => s.wfiWithin p
  | .trap p => s.guarded (encode .wfi) p fun s => .next s.waitForInterrupt

end Sys2Proof.Machine
end

