-- ==== Sys2Proof/Machine/CsrAccess.lean ====
section
/-! DEFINITION. The CSR address space and the access check (10_state.md R40 to R45; 40_csr_access.md R723 to
R728). -/

namespace Sys2Proof.Machine

open Sys2Proof

/-- The CSRs of R43 that this spec describes; a counter carries its number, a PMP register its index. -/
inductive CsrReg where
  | cycle
  | time
  | instret
  | hpmcounter (n : Nat)
  | cycleh
  | timeh
  | instreth
  | hpmcounterh (n : Nat)
  | sstatus
  | sie
  | stvec
  | scounteren
  | senvcfg
  | sscratch
  | sepc
  | scause
  | stval
  | sip
  | satp
  | hstatus
  | hedeleg
  | hideleg
  | hie
  | htimedelta
  | hcounteren
  | hgeie
  | henvcfg
  | htimedeltah
  | henvcfgh
  | htval
  | hip
  | hvip
  | htinst
  | hgatp
  | hgeip
  | vsstatus
  | vsie
  | vstvec
  | vsscratch
  | vsepc
  | vscause
  | vstval
  | vsip
  | vsatp
  | mvendorid
  | marchid
  | mimpid
  | mhartid
  | mconfigptr
  | mstatus
  | misa
  | medeleg
  | mideleg
  | mie
  | mtvec
  | mcounteren
  | mstatush
  | mscratch
  | mepc
  | mcause
  | mtval
  | mip
  | mtinst
  | mtval2
  | menvcfg
  | menvcfgh
  | pmpcfg (k : Nat)
  | pmpaddr (i : Nat)
  | mcycle
  | minstret
  | mhpmcounter (n : Nat)
  | mcycleh
  | minstreth
  | mhpmcounterh (n : Nat)
  | mcountinhibit
  | mhpmevent (n : Nat)
deriving DecidableEq, Repr

/-- Supervisor addresses (R43). -/
def csrOfS (a : Nat) : Option CsrReg :=
  match a with
  | 0x100 => some .sstatus
  | 0x104 => some .sie
  | 0x105 => some .stvec
  | 0x106 => some .scounteren
  | 0x10A => some .senvcfg
  | 0x140 => some .sscratch
  | 0x141 => some .sepc
  | 0x142 => some .scause
  | 0x143 => some .stval
  | 0x144 => some .sip
  | 0x180 => some .satp
  | _ => none

/-- Hypervisor and VS addresses (R43). -/
def csrOfH (a : Nat) : Option CsrReg :=
  match a with
  | 0x600 => some .hstatus
  | 0x602 => some .hedeleg
  | 0x603 => some .hideleg
  | 0x604 => some .hie
  | 0x605 => some .htimedelta
  | 0x606 => some .hcounteren
  | 0x607 => some .hgeie
  | 0x60A => some .henvcfg
  | 0x615 => some .htimedeltah
  | 0x61A => some .henvcfgh
  | 0x643 => some .htval
  | 0x644 => some .hip
  | 0x645 => some .hvip
  | 0x64A => some .htinst
  | 0x680 => some .hgatp
  | 0xE12 => some .hgeip
  | 0x200 => some .vsstatus
  | 0x204 => some .vsie
  | 0x205 => some .vstvec
  | 0x240 => some .vsscratch
  | 0x241 => some .vsepc
  | 0x242 => some .vscause
  | 0x243 => some .vstval
  | 0x244 => some .vsip
  | 0x280 => some .vsatp
  | _ => none

/-- Machine addresses that stand alone (R43). -/
def csrOfM (a : Nat) : Option CsrReg :=
  match a with
  | 0xF11 => some .mvendorid
  | 0xF12 => some .marchid
  | 0xF13 => some .mimpid
  | 0xF14 => some .mhartid
  | 0xF15 => some .mconfigptr
  | 0x300 => some .mstatus
  | 0x301 => some .misa
  | 0x302 => some .medeleg
  | 0x303 => some .mideleg
  | 0x304 => some .mie
  | 0x305 => some .mtvec
  | 0x306 => some .mcounteren
  | 0x30A => some .menvcfg
  | 0x310 => some .mstatush
  | 0x31A => some .menvcfgh
  | 0x320 => some .mcountinhibit
  | 0x340 => some .mscratch
  | 0x341 => some .mepc
  | 0x342 => some .mcause
  | 0x343 => some .mtval
  | 0x344 => some .mip
  | 0x34A => some .mtinst
  | 0x34B => some .mtval2
  | 0xB00 => some .mcycle
  | 0xB02 => some .minstret
  | 0xB80 => some .mcycleh
  | 0xB82 => some .minstreth
  | _ => none

/-- Unprivileged counters (R43). -/
def csrOfU (a : Nat) : Option CsrReg :=
  match a with
  | 0xC00 => some .cycle
  | 0xC01 => some .time
  | 0xC02 => some .instret
  | 0xC80 => some .cycleh
  | 0xC81 => some .timeh
  | 0xC82 => some .instreth
  | _ => none

/-- The numbered families (R43): counters 3 to 31, event selectors, PMP registers. -/
def csrOfRange (a : Nat) : Option CsrReg :=
  if 0xC03 ≤ a ∧ a ≤ 0xC1F then some (.hpmcounter (a - 0xC00))
  else if 0xC83 ≤ a ∧ a ≤ 0xC9F then some (.hpmcounterh (a - 0xC80))
  else if 0xB03 ≤ a ∧ a ≤ 0xB1F then some (.mhpmcounter (a - 0xB00))
  else if 0xB83 ≤ a ∧ a ≤ 0xB9F then some (.mhpmcounterh (a - 0xB80))
  else if 0x323 ≤ a ∧ a ≤ 0x33F then some (.mhpmevent (a - 0x320))
  else if 0x3A0 ≤ a ∧ a ≤ 0x3AF then some (.pmpcfg (a - 0x3A0))
  else if 0x3B0 ≤ a ∧ a ≤ 0x3EF then some (.pmpaddr (a - 0x3B0))
  else none

/-- The register an address names. Debug CSRs (R44, D20), `mseccfg` (D24), the floating-point CSRs and every
unallocated address name none. -/
def csrOf (a : BitVec 12) : Option CsrReg :=
  (csrOfS a.toNat).or ((csrOfH a.toNat).or ((csrOfM a.toNat).or
    ((csrOfU a.toNat).or (csrOfRange a.toNat))))

/-- `csr[9:8]`, the lowest privilege level that can access (R40). -/
def csrLevel (a : BitVec 12) : Nat := (a.extractLsb' 8 2).toNat

/-- `csr[11:10] = 11`: read-only (R40). -/
def csrReadOnly (a : BitVec 12) : Bool := a.extractLsb' 10 2 == 3#2

/-- The high-half CSRs below machine level (R726). -/
def CsrReg.highHalf : CsrReg → Bool
  | .cycleh | .timeh | .instreth | .hpmcounterh _ | .henvcfgh | .htimedeltah => true
  | _ => false

/-- The unprivileged counters with their bit in the counter-enable registers (R728). -/
def CsrReg.counterBit : CsrReg → Option Nat
  | .cycle | .cycleh => some 0
  | .time | .timeh => some 1
  | .instret | .instreth => some 2
  | .hpmcounter n | .hpmcounterh n => some n
  | _ => none

/-- Whether the register exists in this configuration and state (R45, R108, R144, R162, R164, R167, R185,
R250, R330, R470); `xl` is the width of the accessing mode, which governs the unprivileged high halves. -/
def State.csrExists (s : State) (xl : Xlen) (r : CsrReg) : Bool :=
  match r with
  | .cycle | .instret | .hpmcounter _ => true
  | .time => s.cfg.hasTimeCsr
  | .cycleh | .instreth | .hpmcounterh _ => xl == .x32
  | .timeh => s.cfg.hasTimeCsr && xl == .x32
  | .sstatus | .sie | .stvec | .scounteren | .senvcfg | .sscratch | .sepc | .scause | .stval | .sip | .satp =>
    s.hasS
  | .htimedeltah | .henvcfgh => s.hasH && s.sxlen == .x32
  | .hstatus | .hedeleg | .hideleg | .hie | .htimedelta | .hcounteren | .hgeie | .henvcfg | .htval | .hip
  | .hvip | .htinst | .hgatp | .hgeip | .vsstatus | .vsie | .vstvec | .vsscratch | .vsepc | .vscause
  | .vstval | .vsip | .vsatp | .mtinst | .mtval2 => s.hasH
  | .medeleg | .mideleg => s.hasS
  | .mcounteren | .menvcfg => s.hasU
  | .menvcfgh => s.hasU && s.mxlen == .x32
  | .mstatush | .mcycleh | .minstreth | .mhpmcounterh _ => s.mxlen == .x32
  | .mcountinhibit => s.cfg.mcountinhibitPresent
  | .pmpcfg k => (s.mxlen == .x32 || k % 2 == 0) && decide (4 * k < s.cfg.pmpCount)
  | .pmpaddr i => decide (i < s.cfg.pmpCount)
  | .mvendorid | .marchid | .mimpid | .mhartid | .mconfigptr | .mstatus | .misa | .mie | .mtvec | .mscratch
  | .mepc | .mcause | .mtval | .mip | .mcycle | .minstret | .mhpmcounter _ | .mhpmevent _ => true

/-- The address names a register that exists. -/
def State.csrAt (s : State) (xl : Xlen) (a : BitVec 12) : Option CsrReg :=
  match csrOf a with
  | none => none
  | some r => if s.csrExists xl r then some r else none

/-- A privilege reaches a CSR level; the hypervisor level needs S or M (R41, R724). -/
def reaches : Priv → Nat → Bool
  | .machine, _ => true
  | .supervisor, l => decide (l ≤ 2)
  | .user, l => l == 0

/-- `counter_check` (R728). -/
def State.counterCheck (s : State) (b : Nat) : Permit :=
  if s.priv = .machine then .ok
  else if !s.m.counteren.getLsbD b then .illegal
  else if !s.virt then
    (if s.priv = .user ∧ s.hasS ∧ !s.s.counteren.getLsbD b then .illegal else .ok)
  else if !s.h.counteren.getLsbD b then .virt
  else if s.priv = .user ∧ !s.s.counteren.getLsbD b then .virt
  else .ok

/-- The per-register conditions of R727 when V = 0; the counters are checked by R728. -/
def State.extraCheck (s : State) (r : CsrReg) : Permit :=
  match r.counterBit with
  | some b => s.counterCheck b
  | none =>
    match r with
    | .satp | .hgatp => if s.priv = .supervisor ∧ s.mstatus.tvm then .illegal else .ok
    | _ => .ok

/-- The low-half partner of a high-half CSR (R725). -/
def CsrReg.lowHalf : CsrReg → CsrReg
  | .cycleh => .cycle
  | .timeh => .time
  | .instreth => .instret
  | .hpmcounterh n => .hpmcounter n
  | .henvcfgh => .henvcfg
  | .htimedeltah => .htimedelta
  | r => r

/-- `hs_qualified` (R725): the access would be valid in HS-mode with `mstatus.TVM` = 0. A high-half register must exist
here too: with HSXLEN = 64 and XLEN = 32 `htimedeltah` and `henvcfgh` do not (R45), so that an access to them is an illegal
instruction, where the partner sentence of R726 and R868 alone gives a virtual one (DESIGN CHOICE, log 23). -/
def State.hsQualified (s : State) (a : BitVec 12) (r : CsrReg) (w : Bool) (xl : Xlen) : Bool :=
  s.csrExists xl r && (if r.highHalf then s.csrExists .x32 r.lowHalf else true)
    && decide (csrLevel a ≤ 2) && !(w && csrReadOnly a)
    && (match r.counterBit with
        | some b => s.m.counteren.getLsbD b
        | none => true)

/-- `csr_access_check` (R724, D48). -/
def State.csrCheck (s : State) (a : BitVec 12) (w : Bool) : Permit :=
  if !s.virt then
    match s.csrAt s.xlen a with
    | none => .illegal
    | some r =>
      if !reaches s.priv (csrLevel a) then .illegal
      else if w && csrReadOnly a then .illegal
      else s.extraCheck r
  else
    match csrOf a with
    | none => .illegal
    | some r =>
      let xl := s.xlen
      if r.highHalf && xl != .x32 then .illegal
      else if csrLevel a = 3 then .illegal
      else
        let refused : Permit := if s.hsQualified a r w xl then .virt else .illegal
        if csrLevel a = 2 then refused
        else if csrLevel a = 1 ∧ s.priv = .user then refused
        else if !s.csrExists xl r || (w && csrReadOnly a) then .illegal
        else
          match r.counterBit with
          | some b => s.counterCheck b
          | none =>
            if r = .satp ∧ s.priv = .supervisor ∧ s.h.status.vtvm then .virt else .ok

/-- With V = 1 the nine replicated supervisor CSRs are reached as their VS counterparts (R389). -/
def State.effectiveCsr (s : State) (r : CsrReg) : CsrReg :=
  if !s.virt then r
  else
    match r with
    | .sstatus => .vsstatus
    | .sie => .vsie
    | .stvec => .vstvec
    | .sscratch => .vsscratch
    | .sepc => .vsepc
    | .scause => .vscause
    | .stval => .vstval
    | .sip => .vsip
    | .satp => .vsatp
    | other => other

end Sys2Proof.Machine
end

