-- ==== Sys2Proof/Machine/CsrRead.lean ====
section
/-! DEFINITION. What an explicit or implicit read of each CSR returns, at the register's own width and
zero-extended (40_csr_access.md R721, D21; 10_state.md R46, R50). -/

namespace Sys2Proof.Machine

open Sys2Proof

/-- The fields `mstatus` and `sstatus` share (R250). -/
def State.sFields (s : State) : Word :=
  let f := s.mstatus
  flag f.sie 1 ||| flag f.spie 5 ||| flag s.ube 6 ||| flag f.spp 8 ||| field2 f.vs 9 ||| field2 f.fs 13
    ||| flag f.sum 18 ||| flag f.mxr 19

/-- Bits 30:0 of `mstatus` (R113). -/
def State.mFields (s : State) : Word :=
  let f := s.mstatus
  s.sFields ||| flag f.mie 3 ||| flag f.mpie 7 ||| field2 f.mpp.code 11 ||| flag f.mprv 17
    ||| flag f.tvm 20 ||| flag f.tw 21 ||| flag f.tsr 22

/-- UXL and SXL show the width in effect, and zero where the mode is not supported (R118, R254). -/
def xlField (supported : Bool) (x : Xlen) (i : Nat) : Word := if supported then field2 (xlCode x) i else 0

/-- SD in the top bit of a register of this width (R133). -/
def sdBit (xl : Xlen) (fs vs : BitVec 2) : Word := flag (sdFlag fs vs) (xl.bits - 1)

/-- `mstatus` (R113, R133, R410). -/
def State.mstatusWord (s : State) : Word :=
  let f := s.mstatus
  match s.mxlen with
  | .x32 => s.mFields ||| sdBit .x32 f.fs f.vs
  | .x64 =>
    s.mFields ||| xlField s.hasU s.uxlen 32 ||| xlField s.hasS s.sxlen 34 ||| flag s.sbe 36 ||| flag s.mbe 37
      ||| flag (s.hasH && f.gva) 38 ||| flag (s.hasH && f.mpv) 39 ||| sdBit .x64 f.fs f.vs

/-- `mstatush` (R115, R410). -/
def State.mstatushWord (s : State) : Word :=
  let f := s.mstatus
  flag s.sbe 4 ||| flag s.mbe 5 ||| flag (s.hasH && f.gva) 6 ||| flag (s.hasH && f.mpv) 7

/-- `sstatus`: the restricted view of `mstatus` (R250). -/
def State.sstatusWord (s : State) : Word :=
  let f := s.mstatus
  match s.sxlen with
  | .x32 => s.sFields ||| sdBit .x32 f.fs f.vs
  | .x64 => s.sFields ||| xlField s.hasU s.uxlen 32 ||| sdBit .x64 f.fs f.vs

/-- `vsstatus` (R390, R393). -/
def State.vsstatusWord (s : State) : Word :=
  let f := s.vs.status
  let low := flag f.sie 1 ||| flag f.spie 5 ||| flag s.vube 6 ||| flag f.spp 8 ||| field2 f.vs 9
    ||| field2 f.fs 13 ||| flag f.sum 18 ||| flag f.mxr 19
  match s.vsxlen with
  | .x32 => low ||| sdBit .x32 f.fs f.vs
  | .x64 => low ||| field2 (xlCode s.vuxlen) 32 ||| sdBit .x64 f.fs f.vs

/-- `hstatus` (R331). -/
def State.hstatusWord (s : State) : Word :=
  let f := s.h.status
  let low := flag s.vsbe 5 ||| flag f.gva 6 ||| flag f.spv 7 ||| flag f.spvp 8 ||| flag f.hu 9
    ||| ((f.vgein.setWidth 64) <<< 12) ||| flag f.vtvm 20 ||| flag f.vtw 21 ||| flag f.vtsr 22
  match s.sxlen with
  | .x32 => low
  | .x64 => low ||| field2 (xlCode s.vsxlen) 32

/-- `misa` (R101, R104, R108): E is the complement of I. -/
def State.misaWord (s : State) : Word :=
  if !s.cfg.misaPresent then 0
  else
    s.ext.setWidth 64 ||| flag (!s.hasExt Config.bitI) Config.bitE
      ||| field2 (xlCode s.mxl) (s.mxl.bits - 2)

/-- The bits `sip` and `sie` may show: not the VS-level ones, SGEI, or those `hvip` asserts (R265, R348), nor those
above SXLEN. -/
def State.sVisible (s : State) : Word :=
  s.mideleg &&& ~~~(0x1444#64 ||| (if s.hasH then s.cfg.hvipPlatformMask &&& platformBits else 0))
    &&& widthMask s.sxlen

/-- The bits `hip` and `hie` may show (R348, R415), of HSXLEN bits. -/
def State.hVisible (s : State) : Word :=
  (s.hBits ||| (if s.hasH then s.cfg.hvipPlatformMask &&& s.platBits &&& s.mideleg else 0)) &&& widthMask s.sxlen

/-- The bits `vsip` and `vsie` may show, at their places in `hip` and `hie` (R396), of VSXLEN bits. -/
def State.vsVisible (s : State) : Word := s.hideleg &&& widthMask s.vsxlen

/-- Bits 10, 6 and 2 moved to 9, 5 and 1, platform bits in place (R396, D27). -/
def toVsBits (w : Word) : Word := ((w &&& 0x444#64) >>> 1) ||| (w &&& platformBits)

/-- Bits 9, 5 and 1 moved to 10, 6 and 2, platform bits in place (R396). -/
def fromVsBits (w : Word) : Word := ((w &&& 0x222#64) <<< 1) ||| (w &&& platformBits)

/-- The low or the high half of a 64-bit value (R160). -/
def lowHalf (w : Word) : Word := zxTo .x32 w
def highHalf (w : Word) : Word := w >>> 32

/-- The part a counter's own number shows: all 64 bits, or the low 32 (R160). -/
def lowPart (xl : Xlen) (w : Word) : Word := zxTo xl w

/-- The implemented bits of event counter `n` (R162). -/
def hpmMask (c : Config) (n : Nat) : Word := ones 0 (min ((c.hpmWidths.lookup n).getD 64) 64)

/-- Counter `n` (3..31), zero where it is not implemented (R162). -/
def State.hpmValue (s : State) (n : Nat) : Word :=
  if s.cfg.hpmImplemented.getLsbD n then s.m.hpmcounter.getD (n - 3) 0 &&& hpmMask s.cfg n else 0

/-- The event selector of counter `n` (R162). -/
def State.hpmEvent (s : State) (n : Nat) : Word :=
  if s.cfg.hpmImplemented.getLsbD n then s.m.hpmevent.getD (n - 3) 0 else 0

/-- `time`: `mtime`, plus `htimedelta` while V = 1 (R161, R366). -/
def State.timeValue (s : State) : Word := if s.virt then s.mtime + s.h.timedelta else s.mtime

/-- A `pmpcfg` register packs 4 or 8 configuration bytes (R471). -/
def State.pmpcfgWord (s : State) (k : Nat) : Word :=
  let count := match s.mxlen with
    | .x32 => 4
    | .x64 => 8
  ofBytes ((List.range count).map fun j => s.pmpCfg (4 * k + j))

/-- `csr_read` (R721). -/
def State.csrRead (s : State) (r : CsrReg) : Word :=
  match r with
  | .cycle => lowPart s.xlen s.m.cycle
  | .time => lowPart s.xlen s.timeValue
  | .instret => lowPart s.xlen s.m.instret
  | .hpmcounter n => lowPart s.xlen (s.hpmValue n)
  | .cycleh | .mcycleh => highHalf s.m.cycle
  | .timeh => highHalf s.timeValue
  | .instreth | .minstreth => highHalf s.m.instret
  | .hpmcounterh n | .mhpmcounterh n => highHalf (s.hpmValue n)
  | .mcycle => lowPart s.mxlen s.m.cycle
  | .minstret => lowPart s.mxlen s.m.instret
  | .mhpmcounter n => lowPart s.mxlen (s.hpmValue n)
  | .mhpmevent n => s.hpmEvent n
  | .mcountinhibit => s.m.countinhibit.setWidth 64
  | .sstatus => s.sstatusWord
  | .sie => s.mie &&& s.sVisible
  | .sip => s.mip &&& s.sVisible
  | .stvec => s.s.tvec
  | .scounteren => s.s.counteren.setWidth 64
  | .senvcfg => flag s.s.fiom 0
  | .sscratch => s.s.scratch
  | .sepc => s.epcRead s.s.epc
  | .scause => s.s.cause
  | .stval => s.s.tval
  | .satp => s.s.atp
  | .hstatus => s.hstatusWord
  | .hedeleg => s.hedeleg
  | .hideleg => s.hideleg
  | .hie => s.mie &&& s.hVisible
  | .hip => s.mip &&& s.hVisible
  | .hvip => s.h.vip
  | .htimedelta => lowPart s.sxlen s.h.timedelta
  | .htimedeltah => highHalf s.h.timedelta
  | .hcounteren => s.h.counteren.setWidth 64
  | .hgeie => s.h.geie
  | .hgeip => s.hgeip
  | .henvcfg =>
    flag s.h.fiom 0 ||| (match s.sxlen with
      | .x32 => 0
      | .x64 => flag (s.h.pbmte && s.m.pbmte) 62)
  | .henvcfgh => flag (s.h.pbmte && s.m.pbmte) 30
  | .htval => s.h.tval
  | .htinst => s.h.tinst
  | .hgatp => s.h.gatp
  | .vsstatus => s.vsstatusWord
  | .vsie => toVsBits (s.mie &&& s.vsVisible)
  | .vsip => toVsBits (s.mip &&& s.vsVisible)
  | .vstvec => zxTo s.vsxlen s.vs.tvec
  | .vsscratch => s.vs.scratch
  | .vsepc => s.epcRead s.vs.epc
  | .vscause => s.vs.cause
  | .vstval => s.vs.tval
  | .vsatp => s.vs.atp
  | .mvendorid => s.cfg.mvendorid.setWidth 64
  | .marchid => zxTo s.mxlen s.cfg.marchid
  | .mimpid => zxTo s.mxlen s.cfg.mimpid
  | .mhartid => zxTo s.mxlen s.cfg.mhartid
  | .mconfigptr => zxTo s.mxlen s.cfg.mconfigptr
  | .mstatus => s.mstatusWord
  | .mstatush => s.mstatushWord
  | .misa => s.misaWord
  | .medeleg => s.medeleg
  | .mideleg => s.mideleg
  | .mie => s.mie
  | .mip => s.mip
  | .mtvec => zxTo s.mxlen s.m.tvec
  | .mcounteren => s.m.counteren.setWidth 64
  | .mscratch => s.m.scratch
  | .mepc => s.epcRead s.m.epc
  | .mcause => s.m.cause
  | .mtval => s.m.tval
  | .mtval2 => s.m.tval2
  | .mtinst => s.m.tinst
  | .menvcfg =>
    flag s.m.fiom 0 ||| (match s.mxlen with
      | .x32 => 0
      | .x64 => flag s.m.pbmte 62)
  | .menvcfgh => flag s.m.pbmte 30
  | .pmpcfg k => s.pmpcfgWord k
  | .pmpaddr i => s.pmpAddr i

/-- The value a CSRRS or CSRRC combines with its mask, where it is not the value read (R721): SEIP is the software bit
alone (R152), bits that `xepc` masks on reads (R170) and that the PMP grain hides (R476) keep what is stored. -/
def State.csrStored (s : State) (r : CsrReg) : Word :=
  match r with
  | .mip => (s.mip &&& ~~~0x200#64) ||| (s.m.ip &&& s.sBits &&& 0x200#64)
  | .sip => ((s.mip &&& ~~~0x200#64) ||| (s.m.ip &&& s.sBits &&& 0x200#64)) &&& s.sVisible
  | .mepc => s.m.epc
  | .sepc => s.s.epc
  | .vsepc => s.vs.epc
  | .pmpaddr i => s.pmpAddrRaw i
  | other => s.csrRead other

end Sys2Proof.Machine
end

