-- ==== Sys2Proof/Machine/CsrWrite.lean ====
section
/-! DEFINITION. What a write does to each CSR: legalisation of WARL and WLRL fields, write side effects, and
the width changes of other CSRs (40_csr_access.md R721, R729; 10_state.md R47 to R52; D3, D4). -/

namespace Sys2Proof.Machine

open Sys2Proof

/-! ## Field legalisation -/

/-- An endianness bit (R124) is stored only where both orders are legal; elsewhere `pickEndian` says what it reads
as. -/
def legalEndian (e : EndianSet) (v : Bool) : Bool := e == .both && v

/-- An XL field (R118, R332, R392): stored only where it is writable; a reserved encoding keeps it (D3). -/
def legalXl (writable : Bool) (old : Xlen) (v : BitVec 2) : Xlen :=
  if writable then (xlOfCode v).getD old else old

/-- MPP (R117): an unimplemented mode keeps the field (D3). -/
def State.legalMpp (s : State) (v : BitVec 2) : Priv :=
  if v = 3 then .machine
  else if v = 1 ∧ s.hasS then .supervisor
  else if v = 0 ∧ s.hasU then .user
  else s.mstatus.mpp

/-- Two bits of a word. -/
def two (v : Word) (i : Nat) : BitVec 2 := v.extractLsb' i 2

/-- The fields shared by `mstatus` and `sstatus` (R114, R250); SUM is read-only zero unless `paged` (R122). -/
def State.writeSFields (s : State) (paged : Bool) (v : Word) : MStatus :=
  { s.mstatus with
    sie := s.hasS && v.getLsbD 1
    spie := s.hasS && v.getLsbD 5
    ube := s.hasU && legalEndian s.cfg.ube (v.getLsbD 6)
    spp := s.hasS && v.getLsbD 8
    vs := if s.hasS && s.cfg.vsWritable then two v 9 else s.mstatus.vs
    fs := if s.hasS && s.cfg.fsWritable then two v 13 else s.mstatus.fs
    sum := paged && v.getLsbD 18
    mxr := s.hasS && v.getLsbD 19 }

/-- UXL as stored for a write of bits 33:32 (R118): 32 where SXLEN = 32 forces it (R254; log 28). -/
def State.legalUxl (s : State) (v : Word) : Xlen :=
  if s.uxlForced then .x32 else legalXl (s.hasU && s.cfg.uxl == .both) s.mstatus.uxl (two v 32)

/-- `mstatus` (R113, R114). SUM and UXL follow the SXL written with them. -/
def State.writeMstatus (s : State) (v : Word) : MStatus :=
  let sxl :=
    match s.mxlen with
    | .x32 => s.mstatus.sxl
    | .x64 => legalXl (s.hasS && s.cfg.sxl == .both) s.mstatus.sxl (two v 34)
  let t : State := { s with mstatus := { s.mstatus with sxl := sxl } }
  let low : MStatus :=
    { t.writeSFields t.pagedMode v with
      mie := v.getLsbD 3
      mpie := v.getLsbD 7
      mpp := s.legalMpp (two v 11)
      mprv := s.hasU && v.getLsbD 17
      tvm := s.hasS && v.getLsbD 20
      tw := s.hasU && v.getLsbD 21
      tsr := s.hasS && v.getLsbD 22 }
  match s.mxlen with
  | .x32 => low
  | .x64 =>
    { low with
      uxl := t.legalUxl v
      sbe := s.hasS && legalEndian s.cfg.sbe (v.getLsbD 36)
      mbe := legalEndian s.cfg.mbe (v.getLsbD 37)
      gva := if s.hasH then v.getLsbD 38 else s.mstatus.gva
      mpv := if s.hasH then v.getLsbD 39 else s.mstatus.mpv }

/-- `mstatush` (R115). -/
def State.writeMstatush (s : State) (v : Word) : MStatus :=
  { s.mstatus with
    sbe := s.hasS && legalEndian s.cfg.sbe (v.getLsbD 4)
    mbe := legalEndian s.cfg.mbe (v.getLsbD 5)
    gva := if s.hasH then v.getLsbD 6 else s.mstatus.gva
    mpv := if s.hasH then v.getLsbD 7 else s.mstatus.mpv }

/-- `sstatus` (R250). -/
def State.writeSstatus (s : State) (v : Word) : MStatus :=
  let f := s.writeSFields s.pagedMode v
  match s.sxlen with
  | .x32 => f
  | .x64 => { f with uxl := s.legalUxl v }

/-- `vsstatus` (R390 to R394); SUM is read-only zero where `vsatp.MODE` is (R255). -/
def State.writeVsstatus (s : State) (v : Word) : VsStatus :=
  let f : VsStatus :=
    { s.vs.status with
      sie := v.getLsbD 1
      spie := v.getLsbD 5
      ube := legalEndian s.cfg.vube (v.getLsbD 6)
      spp := v.getLsbD 8
      vs := if s.cfg.vsWritable then two v 9 else s.vs.status.vs
      fs := if s.cfg.fsWritable then two v 13 else s.vs.status.fs
      sum := pagedAt s.cfg s.vsxlen && v.getLsbD 18
      mxr := v.getLsbD 19 }
  match s.vsxlen with
  | .x32 => f
  | .x64 => { f with uxl := legalXl (s.cfg.vuxl == .both) s.vs.status.uxl (two v 32) }

/-- VGEIN is a field that cannot be written: with GEILEN = 0 it may be read-only zero (R336). -/
def State.vgeinFixed (s : State) : Bool := s.cfg.geilen == 0 && s.cfg.vgeinReadOnlyZero

/-- A write of `hstatus` that traps because of its VGEIN, an illegal WLRL write (R47, R336). -/
def State.vgeinRefused (s : State) (v : Word) : Bool :=
  s.cfg.vgeinTraps && !s.vgeinFixed && decide (s.cfg.geilen < (v.extractLsb' 12 6).toNat)

/-- VGEIN (R336): a value above GEILEN is an illegal WLRL write (R47), whose result is free. -/
def State.legalVgein (s : State) (v : BitVec 6) : BitVec 6 :=
  if s.vgeinFixed then 0
  else if v.toNat ≤ s.cfg.geilen then v
  else Config.freeVgein s.h.status.vgein v

/-- `hstatus` (R331 to R341). -/
def State.writeHstatus (s : State) (v : Word) : HStatus :=
  let f : HStatus :=
    { s.h.status with
      vsbe := legalEndian s.cfg.vsbe (v.getLsbD 5)
      gva := v.getLsbD 6
      spv := v.getLsbD 7
      spvp := v.getLsbD 8
      hu := v.getLsbD 9
      vgein := s.legalVgein (v.extractLsb' 12 6)
      vtvm := v.getLsbD 20
      vtw := v.getLsbD 21
      vtsr := v.getLsbD 22 }
  match s.sxlen with
  | .x32 => f
  | .x64 => { f with vsxl := legalXl (s.cfg.vsxl == .both) s.h.status.vsxl (two v 32) }

/-- A trap-vector register (R140, R141, R260): a read-only one keeps its value; a reserved or unsupported MODE keeps the
MODE held, bits of BASE that it cannot hold are forced to zero (D3). -/
def legalTvec (t : TvecLegal) (old v : Word) : Word :=
  if t.fixed.isSome then old
  else
    let vectored :=
      if two v 0 = 0 ∧ t.direct then false else if two v 0 = 1 ∧ t.vectored then true else old.getLsbD 0
    let align := if vectored then t.alignVectored else t.alignDirect
    (v &&& t.baseMask &&& ~~~ones 0 align) ||| flag vectored 0

/-- An event selector (R162): event 0 and the events of the counter's set; any other keeps the one held (log 14). -/
def legalEvent (c : Config) (n : Nat) (old v : Word) : Word :=
  match c.hpmEvents.lookup n with
  | none => v
  | some events => if v = 0 ∨ events.contains v then v else old

/-- `htval` and `mtval2` (R373, R413): a value they cannot hold keeps the one held (log 26). -/
def legalTval2 (c : Config) (old v : Word) : Word := if v.toNat < 2 ^ c.htvalBits then v else old

/-- A cause register with these Exception Code bits supports the code of `v`: one of 0 to 31, or one that the hart raises,
into M-mode (`m`) also that of the NMI or of reset (R173, R283, R860, R861; log 13). -/
def State.causeSupported (s : State) (p : CausePolicy) (m : Bool) (xl : Xlen) (v : Word) : Bool :=
  let code := bitsAt v 0 (xl.bits - 1)
  decide (code < 2 ^ p.bits)
    && (decide (code < 32) || (v.getLsbD (xl.bits - 1) && s.platBits.getLsbD code)
      || (m && (code == s.cfg.nmiCause.toNat || code == bitsAt s.cfg.resetCause 0 (xl.bits - 1))))

/-- The implemented bits of a cause register: the low ones of the Exception Code, and Interrupt (R173, R283; log 13). -/
def causeMask (p : CausePolicy) (xl : Xlen) : Word := (ones 0 p.bits ||| flag true (xl.bits - 1)) &&& widthMask xl

/-- A cause register (R173, R283): the Exception Code is WLRL (R729, D4). None is the trap it may raise. -/
def State.legalCause (s : State) (p : CausePolicy) (m : Bool) (xl : Xlen) (v : Word) : Option Word :=
  match p with
  | .store _ => some (v &&& causeMask p xl)
  | .trapUnsupported _ => if s.causeSupported p m xl v then some (v &&& causeMask p xl) else none

/-- A `satp`/`vsatp` MODE is supported (R301, R310). -/
def supportsMode (c : Config) (xl : Xlen) (mode : Nat) : Bool :=
  match xl with
  | .x32 => mode == 0 || (mode == 1 && c.sv32)
  | .x64 => mode == 0 || (mode == 8 && c.sv39) || (mode == 9 && c.sv48) || (mode == 10 && c.sv57)

/-- An `hgatp` MODE is supported (R379, R380). -/
def supportsGMode (c : Config) (xl : Xlen) (mode : Nat) : Bool :=
  match xl with
  | .x32 => mode == 0 || (mode == 1 && c.sv32x4)
  | .x64 => mode == 0 || (mode == 8 && c.sv39x4) || (mode == 9 && c.sv48x4) || (mode == 10 && c.sv57x4)

/-- Where MODE stands in an address-translation register. -/
def modeMask : Xlen → Word
  | .x32 => 0x80000000#64
  | .x64 => 0xF000000000000000#64

/-- The implemented bits of ASID and PPN (R300, R310). -/
def atpFields (c : Config) (xl : Xlen) : Word :=
  match xl with
  | .x32 => ones 0 (min c.ppnBits 22) ||| ones 22 (22 + min c.asidLen 9)
  | .x64 => ones 0 (min c.ppnBits 44) ||| ones 44 (44 + min c.asidLen 16)

/-- The implemented bits of VMID and PPN; PPN[1:0] is read-only zero (R378, R380, R381). -/
def gatpFields (c : Config) (xl : Xlen) : Word :=
  match xl with
  | .x32 => ones 2 (min c.gppnBits 22) ||| ones 22 (22 + min c.vmidLen 7)
  | .x64 => ones 2 (min c.gppnBits 44) ||| ones 44 (44 + min c.vmidLen 14)

/-- A write of an address-translation register with a supported MODE. Bare with other bits set leaves the
other fields with a free value (R302). -/
def atpValue (xl : Xlen) (fields v : Word) (draw : Nat) : Word :=
  if atpMode xl v = 0 ∧ v &&& ~~~modeMask xl ≠ 0 then Config.freeWord draw &&& fields
  else (v &&& modeMask xl) ||| (v &&& fields)

/-- A `satp` or `vsatp` write (R301, R302, R408): an unsupported MODE leaves the register unchanged, or, with
`keepMode`, keeps MODE and writes the other fields. -/
def atpWrite (c : Config) (xl : Xlen) (keepMode : Bool) (old v : Word) (draw : Nat) : Word :=
  if supportsMode c xl (atpMode xl v) then atpValue xl (atpFields c xl) v draw
  else if keepMode then (old &&& modeMask xl) ||| (v &&& atpFields c xl)
  else old

/-- An `hgatp` write (R380, D31): an unsupported MODE keeps MODE and writes VMID and PPN. -/
def gatpWrite (c : Config) (xl : Xlen) (old v : Word) (draw : Nat) : Word :=
  if supportsGMode c xl (atpMode xl v) then atpValue xl (gatpFields c xl) v draw
  else (old &&& modeMask xl) ||| (v &&& gatpFields c xl)

/-- Entry `i` of the PMP is read-only zero: it is not there, or the implementation has it so (R470; log 16). -/
def State.pmpFixed (s : State) (i : Nat) : Bool := decide (s.cfg.pmpCount ≤ i) || s.cfg.pmpReadOnlyZero.getLsbD i

/-- One `pmp<i>cfg` byte (R470, R471, R476, R477, D36). -/
def State.legalPmpcfg (s : State) (i : Nat) (v : Byte) : Byte :=
  let old := s.pmpCfg i
  if s.pmpFixed i || pmpLocked old then old
  else if v.getLsbD 1 && !v.getLsbD 0 then old
  else
    let a : Byte := if pmpA v = 2 ∧ 1 ≤ s.cfg.pmpG then old &&& 0x18#8 else v &&& 0x18#8
    (v &&& 0x87#8) ||| a

/-- The bytes of a `pmpcfg` register from entry `i` upward (R471). -/
def State.writePmpcfgs (s : State) (i : Nat) (v : Word) : Nat → State
  | 0 => s
  | n + 1 =>
    ({ s with pmpcfg := s.pmpcfg.setIfInBounds i (s.legalPmpcfg i (v.setWidth 8)) } : State).writePmpcfgs
      (i + 1) (v >>> 8) n

/-- The implemented bits of `pmpaddr` (R472). -/
def State.pmpaddrMask (s : State) : Word := ones 0 (min (s.cfg.palen - 2) s.pmpaddrWidth)

/-- Entry `i` keeps its address register from being written (R470, R477). -/
def State.pmpaddrLocked (s : State) (i : Nat) : Bool :=
  s.pmpFixed i || pmpLocked (s.pmpCfg i) || (pmpLocked (s.pmpCfg (i + 1)) && pmpA (s.pmpCfg (i + 1)) == 1)

/-- Replace the low or the high 32 bits of a 64-bit value (R160). -/
def withLow (old v : Word) : Word := merge 0xFFFFFFFF#64 old v
def withHigh (old v : Word) : Word := merge 0xFFFFFFFF00000000#64 old (v <<< 32)

/-- Write a 64-bit value through a register of the given width (R160). -/
def writePart (xl : Xlen) (old v : Word) : Word :=
  match xl with
  | .x32 => withLow old v
  | .x64 => v

/-- A 32-bit WARL register with a mask of writable bits. -/
def merge32 (mask old : BitVec 32) (v : Word) : BitVec 32 := (old &&& ~~~mask) ||| (v.setWidth 32 &&& mask)

/-! ## Width changes (R52, R119, R332, R392, R482) -/

/-- A trap-vector register at the new width 32: a read-only one has a fixed value. -/
def narrowTvec (t : TvecLegal) (v : Word) : Word := t.fixed.getD (zxTo .x32 v)

/-- The event selectors at the new width 32: the low bits, or no event where those are no event of the counter. -/
def narrowEvents (c : Config) (l : Vector Word 29) : Vector Word 29 :=
  Vector.ofFn fun (k : Fin 29) => legalEvent c (k.val + 3) 0 (zxTo .x32 l[k.val])

/-- A cause register at a new width: what both widths implement stays (R52). -/
def resizeCause (p : CausePolicy) (v : Word) : Word := v &&& causeMask p .x32 &&& causeMask p .x64

/-- The machine CSRs take the new width 32: the low bits stay. The fields of the upper halves are then those of
`mstatush` and `menvcfgh`, which come into existence (log 34). -/
def State.narrowM (s : State) : State :=
  { s with
    m := { s.m with
      tvec := narrowTvec s.cfg.mtvec s.m.tvec, edeleg := zxTo .x32 s.m.edeleg, ideleg := zxTo .x32 s.m.ideleg
      ie := zxTo .x32 s.m.ie, ip := zxTo .x32 s.m.ip, scratch := zxTo .x32 s.m.scratch
      epc := zxTo .x32 s.m.epc, cause := resizeCause s.cfg.mcausePolicy s.m.cause
      tval := zxTo .x32 s.m.tval, tval2 := zxTo .x32 s.m.tval2, tinst := zxTo .x32 s.m.tinst
      hpmevent := narrowEvents s.cfg s.m.hpmevent }
    pmpaddr := s.pmpaddr.map (zxTo .x32) }

/-- An address-translation register narrowed to 32 bits, its fields legal again (R52). -/
def narrowAtp (c : Config) (v : Word) : Word :=
  let w := zxTo .x32 v
  if supportsMode c .x32 (atpMode .x32 w) then w &&& (modeMask .x32 ||| atpFields c .x32)
  else w &&& atpFields c .x32

def narrowGatp (c : Config) (v : Word) : Word :=
  let w := zxTo .x32 v
  if supportsGMode c .x32 (atpMode .x32 w) then w &&& (modeMask .x32 ||| gatpFields c .x32)
  else w &&& gatpFields c .x32

/-- The supervisor and hypervisor CSRs take the new width 32. PBMTE and the upper half of the delta are then those of
`henvcfgh` and `htimedeltah`, which come into existence (log 34). -/
def State.narrowS (s : State) : State :=
  { s with
    s := { s.s with
      tvec := narrowTvec s.cfg.stvec s.s.tvec, scratch := zxTo .x32 s.s.scratch, epc := zxTo .x32 s.s.epc
      cause := resizeCause s.cfg.scausePolicy s.s.cause, tval := zxTo .x32 s.s.tval
      atp := narrowAtp s.cfg s.s.atp }
    h := { s.h with
      edeleg := zxTo .x32 s.h.edeleg, ideleg := zxTo .x32 s.h.ideleg, vip := zxTo .x32 s.h.vip
      geie := zxTo .x32 s.h.geie, tval := zxTo .x32 s.h.tval, tinst := zxTo .x32 s.h.tinst
      gatp := narrowGatp s.cfg s.h.gatp } }

/-- The VS CSRs take the new width 32. -/
def State.narrowVs (s : State) : State :=
  { s with
    vs := { s.vs with
      status := { s.vs.status with sum := pagedAt s.cfg .x32 && s.vs.status.sum }
      tvec := narrowTvec s.cfg.vstvec s.vs.tvec, scratch := zxTo .x32 s.vs.scratch, epc := zxTo .x32 s.vs.epc
      cause := resizeCause s.cfg.vscausePolicy s.vs.cause, tval := zxTo .x32 s.vs.tval
      atp := narrowAtp s.cfg s.vs.atp } }

/-- The machine CSRs take the new width 64, zero-extended (R52); SXL and UXL take the widest width (R119). -/
def State.widenM (s : State) : State :=
  { s with
    mstatus := { s.mstatus with sxl := .x64, uxl := .x64, mbe := false, sbe := false, mpv := false, gva := false }
    m := { s.m with cause := resizeCause s.cfg.mcausePolicy s.m.cause, pbmte := false } }

/-- MXLEN went from `old` to its present value. -/
def State.settleM (s : State) (old : Xlen) : State :=
  match old, s.mxlen with
  | .x64, .x32 => s.narrowM.staleAfter s
  | .x32, .x64 => s.widenM
  | _, _ => s

/-- The supervisor and hypervisor CSRs take the new width 64, zero-extended, MODE being 0 (R52); VSXL takes the widest
width (R332). -/
def State.widenS (s : State) : State :=
  { s with
    s := { s.s with cause := resizeCause s.cfg.scausePolicy s.s.cause, atp := s.s.atp &&& atpFields s.cfg .x64 }
    h := { s.h with
      status := { s.h.status with vsxl := .x64 }, gatp := s.h.gatp &&& gatpFields s.cfg .x64, pbmte := false
      timedelta := zxTo .x32 s.h.timedelta } }

/-- SXLEN went from `old` to its present value. -/
def State.settleS (s : State) (old : Xlen) : State :=
  match old, s.sxlen with
  | .x64, .x32 => s.narrowS
  | .x32, .x64 => s.widenS
  | _, _ => s

/-- The VS CSRs take the new width 64, zero-extended (R52); UXL takes the widest width (R392). SUM was read-only zero where
Sv32 is absent. -/
def State.widenVs (s : State) : State :=
  { s with
    vs := { s.vs with
      status := { s.vs.status with uxl := .x64, sum := pagedAt s.cfg .x32 && pagedAt s.cfg .x64 && s.vs.status.sum }
      cause := resizeCause s.cfg.vscausePolicy s.vs.cause, atp := s.vs.atp &&& atpFields s.cfg .x64 } }

/-- VSXLEN went from `old` to its present value. -/
def State.settleVs (s : State) (old : Xlen) : State :=
  match old, s.vsxlen with
  | .x64, .x32 => s.narrowVs
  | .x32, .x64 => s.widenVs
  | _, _ => s

/-- Apply the width changes that lead from `before` to `after`. -/
def settle (before after : State) : State :=
  ((after.settleM before.mxlen).settleS before.sxlen).settleVs before.vsxlen

/-! ## Writes -/

/-- Bits of `hideleg` that `before` did not let be written become writable with a free value (R49, R344). -/
def State.freeHideleg (s before : State) : State :=
  let gained := s.hidelegMask &&& ~~~before.hidelegMask &&& widthMask s.sxlen
  if gained = 0 then s
  else { s with
    h := { s.h with ideleg := merge gained s.h.ideleg (Config.freeWord s.draws) }
    draws := s.draws + 1 }

/-- Writes of the machine-level registers; none is a WLRL trap. `misa` stands apart. -/
def State.writeMCsr (s : State) (r : CsrReg) (v : Word) : Option State :=
  let xl := s.mxlen
  match r with
  | .mstatus => some (settle s { s with mstatus := s.writeMstatus v })
  | .mstatush => some { s with mstatus := s.writeMstatush v }
  | .medeleg => some { s with m := { s.m with edeleg := merge s.medelegMask s.m.edeleg (zxTo xl v) } }
  | .mideleg =>
    some (State.freeHideleg { s with m := { s.m with ideleg := merge s.midelegMask s.m.ideleg (zxTo xl v) } } s)
  | .mie => some { s with m := { s.m with ie := merge s.mieMask s.m.ie (zxTo xl v) } }
  | .mip =>
    some { s with
      m := { s.m with ip := merge s.sBits s.m.ip v }
      h := if s.hasH then { s.h with vip := merge 4#64 s.h.vip v } else s.h }
  | .mtvec => some { s with m := { s.m with tvec := legalTvec s.cfg.mtvec s.m.tvec (zxTo xl v) } }
  | .mcounteren => some { s with m := { s.m with counteren := merge32 s.cfg.mcounterenMask s.m.counteren v } }
  | .mcountinhibit =>
    some { s with m := { s.m with
      countinhibit := merge32 (s.cfg.mcountinhibitMask &&& 0xFFFFFFFD#32) s.m.countinhibit v } }
  | .mscratch => some { s with m := { s.m with scratch := zxTo xl v } }
  | .mepc => some { s with m := { s.m with epc := epcValue s.cfg xl v } }
  | .mcause => (s.legalCause s.cfg.mcausePolicy true xl v).map fun c => { s with m := { s.m with cause := c } }
  | .mtval =>
    some (if s.cfg.mtvalReadOnlyZero then s else { s with m := { s.m with tval := tvalValue s.cfg xl v } })
  | .mtval2 => some { s with m := { s.m with tval2 := legalTval2 s.cfg s.m.tval2 (zxTo xl v) } }
  | .mtinst => some { s with m := { s.m with tinst := zxTo xl v } }
  | .menvcfg =>
    some { s with m := { s.m with
      fiom := s.cfg.mFiomWritable && v.getLsbD 0
      pbmte := match xl with
        | .x32 => s.m.pbmte
        | .x64 => s.cfg.svpbmt && v.getLsbD 62 } }
  | .menvcfgh => some { s with m := { s.m with pbmte := s.cfg.svpbmt && v.getLsbD 30 } }
  | .pmpcfg k =>
    some ((s.writePmpcfgs (4 * k) v (match xl with
      | .x32 => 4
      | .x64 => 8)).staleAfter s)
  | .pmpaddr i =>
    some (if s.pmpaddrLocked i then s
      else State.staleAfter { s with pmpaddr := s.pmpaddr.setIfInBounds i (v &&& s.pmpaddrMask) } s)
  | .mcycle => some { s with m := { s.m with cycle := writePart xl s.m.cycle v } }
  | .minstret => some { s with m := { s.m with instret := writePart xl s.m.instret v } }
  | .mcycleh => some { s with m := { s.m with cycle := withHigh s.m.cycle v } }
  | .minstreth => some { s with m := { s.m with instret := withHigh s.m.instret v } }
  | .mhpmcounter n =>
    some (if s.cfg.hpmImplemented.getLsbD n then
      { s with m := { s.m with
        hpmcounter := s.m.hpmcounter.setIfInBounds (n - 3) (writePart xl (s.hpmValue n) v &&& hpmMask s.cfg n) } } else s)
  | .mhpmcounterh n =>
    some (if s.cfg.hpmImplemented.getLsbD n then
      { s with m := { s.m with
        hpmcounter := s.m.hpmcounter.setIfInBounds (n - 3) (withHigh (s.hpmValue n) v &&& hpmMask s.cfg n) } } else s)
  | .mhpmevent n =>
    some (if s.cfg.hpmImplemented.getLsbD n then
      { s with m := { s.m with
        hpmevent := s.m.hpmevent.setIfInBounds (n - 3) (legalEvent s.cfg n (s.hpmEvent n) (zxTo xl v)) } } else s)
  | _ => some s

/-- Writes of the supervisor registers (12_state_supervisor_csrs.md). -/
def State.writeSCsr (s : State) (r : CsrReg) (v : Word) : Option State :=
  let xl := s.sxlen
  match r with
  | .sstatus => some { s with mstatus := s.writeSstatus v }
  | .sie => some { s with m := { s.m with ie := merge (s.mieMask &&& s.sVisible) s.m.ie (zxTo xl v) } }
  | .sip => some { s with m := { s.m with ip := merge (2#64 &&& s.sVisible &&& s.sBits) s.m.ip v } }
  | .stvec => some { s with s := { s.s with tvec := legalTvec s.cfg.stvec s.s.tvec (zxTo xl v) } }
  | .scounteren => some { s with s := { s.s with counteren := merge32 s.cfg.scounterenMask s.s.counteren v } }
  | .senvcfg => some { s with s := { s.s with fiom := s.cfg.sFiomWritable && v.getLsbD 0 } }
  | .sscratch => some { s with s := { s.s with scratch := zxTo xl v } }
  | .sepc => some { s with s := { s.s with epc := epcValue s.cfg xl v } }
  | .scause => (s.legalCause s.cfg.scausePolicy false xl v).map fun c => { s with s := { s.s with cause := c } }
  | .stval => some { s with s := { s.s with tval := tvalValue s.cfg xl v } }
  | .satp =>
    some { s with s := { s.s with atp := atpWrite s.cfg xl false s.s.atp (zxTo xl v) s.draws }
                  draws := s.draws + 1 }
  | _ => some s

/-- Writes of the hypervisor registers (13_state_hypervisor_csrs.md). -/
def State.writeHCsr (s : State) (r : CsrReg) (v : Word) : Option State :=
  let xl := s.sxlen
  match r with
  | .hstatus =>
    if s.vgeinRefused v then none else some (settle s { s with h := { s.h with status := s.writeHstatus v } })
  | .hedeleg => some { s with h := { s.h with edeleg := merge s.hedelegMask s.h.edeleg (zxTo xl v) } }
  | .hideleg => some { s with h := { s.h with ideleg := merge s.hidelegMask s.h.ideleg (zxTo xl v) } }
  | .hie => some { s with m := { s.m with ie := merge (s.mieMask &&& s.hVisible) s.m.ie (zxTo xl v) } }
  | .hip => some { s with h := { s.h with vip := merge 4#64 s.h.vip v } }
  | .hvip =>
    some { s with h := { s.h with
      vip := merge (0x444#64 ||| (s.cfg.hvipPlatformMask &&& platformBits)) s.h.vip (zxTo xl v) } }
  | .htimedelta => some { s with h := { s.h with timedelta := writePart xl s.h.timedelta v } }
  | .htimedeltah => some { s with h := { s.h with timedelta := withHigh s.h.timedelta v } }
  | .hcounteren => some { s with h := { s.h with counteren := merge32 s.cfg.hcounterenMask s.h.counteren v } }
  | .hgeie => some { s with h := { s.h with geie := zxTo xl (v &&& s.geiMask) } }
  | .henvcfg =>
    some { s with h := { s.h with
      fiom := s.cfg.hFiomWritable && v.getLsbD 0
      pbmte := match xl with
        | .x32 => s.h.pbmte
        | .x64 => if s.m.pbmte then v.getLsbD 62 else s.h.pbmte } }
  | .henvcfgh =>
    some { s with h := { s.h with pbmte := if s.m.pbmte then v.getLsbD 30 else s.h.pbmte } }
  | .htval => some { s with h := { s.h with tval := legalTval2 s.cfg s.h.tval (zxTo xl v) } }
  | .htinst => some { s with h := { s.h with tinst := zxTo xl v } }
  | .hgatp =>
    some { s with h := { s.h with gatp := gatpWrite s.cfg xl s.h.gatp (zxTo xl v) s.draws }
                  draws := s.draws + 1 }
  | _ => some s

/-- Writes of the VS registers, by their own numbers or, while V = 1, by the supervisor numbers (R389 to
R408). -/
def State.writeVsCsr (s : State) (r : CsrReg) (v : Word) : Option State :=
  let xl := s.vsxlen
  match r with
  | .vsstatus => some { s with vs := { s.vs with status := s.writeVsstatus v } }
  | .vsie =>
    some { s with m := { s.m with ie := merge (s.mieMask &&& s.vsVisible) s.m.ie (fromVsBits (zxTo xl v)) } }
  | .vsip => some { s with h := { s.h with vip := merge (4#64 &&& s.hideleg) s.h.vip (fromVsBits v) } }
  | .vstvec => some { s with vs := { s.vs with tvec := legalTvec s.cfg.vstvec s.vs.tvec (zxTo xl v) } }
  | .vsscratch => some { s with vs := { s.vs with scratch := zxTo xl v } }
  | .vsepc => some { s with vs := { s.vs with epc := epcValue s.cfg xl v } }
  | .vscause => (s.legalCause s.cfg.vscausePolicy false xl v).map fun c => { s with vs := { s.vs with cause := c } }
  | .vstval => some { s with vs := { s.vs with tval := tvalValue s.cfg xl v } }
  | .vsatp =>
    some { s with
      vs := { s.vs with
        atp := atpWrite s.cfg xl (!s.virt && !s.cfg.vsatpV0Ignore) s.vs.atp (zxTo xl v) s.draws }
      draws := s.draws + 1 }
  | _ => some s

/-- Writes of every register but `misa`. -/
def State.writeOther (s : State) (r : CsrReg) (v : Word) : Option State :=
  match r with
  | .sstatus | .sie | .stvec | .scounteren | .senvcfg | .sscratch | .sepc | .scause | .stval | .sip | .satp =>
    s.writeSCsr r v
  | .hstatus | .hedeleg | .hideleg | .hie | .htimedelta | .hcounteren | .hgeie | .henvcfg | .htimedeltah
  | .henvcfgh | .htval | .hip | .hvip | .htinst | .hgatp =>
    s.writeHCsr r v
  | .vsstatus | .vsie | .vstvec | .vsscratch | .vsepc | .vscause | .vstval | .vsip | .vsatp =>
    s.writeVsCsr r v
  | _ => s.writeMCsr r v

/-! ## `misa` (R101 to R108) -/

/-- The registers whose state belongs to the hypervisor extension (R330, R410 to R416). -/
def hypervisorRegs : List CsrReg :=
  [.hstatus, .hedeleg, .hideleg, .htimedelta, .htimedeltah, .hcounteren, .hgeie, .henvcfg, .htval, .hvip, .htinst,
   .hgatp, .vsstatus, .vstvec, .vsscratch, .vsepc, .vscause, .vstval, .vsatp, .mtval2, .mtinst]

/-- The registers whose state belongs to S-mode, and to U-mode. -/
def supervisorRegs : List CsrReg :=
  [.stvec, .scounteren, .senvcfg, .sscratch, .sepc, .scause, .stval, .satp]
def userRegs : List CsrReg := [.mcounteren, .menvcfg, .menvcfgh]

/-- Give each register a free legal value (R106). -/
def State.freeRegs (s : State) : List CsrReg → State
  | [] => s
  | r :: rest => (((s.writeOther r (Config.freeWord s.draws)).getD s).drew).freeRegs rest

/-- The state of a re-enabled hypervisor extension: every register of it, MPV, GVA and the stored `henvcfg.PBMTE`, free
(R106, D26). -/
def State.freeHypervisor (s : State) : State :=
  let t := s.freeRegs hypervisorRegs
  { t with
    mstatus := { t.mstatus with mpv := Config.freeBit t.draws, gva := Config.freeBit (t.draws + 1) }
    h := { t.h with pbmte := t.cfg.svpbmt && Config.freeBit (t.draws + 2) }
    draws := t.draws + 3 }

/-- The state of a re-enabled S-mode: its fields of `mstatus`, the width drawn with them in effect, and its registers, free
(R52, R106). -/
def State.freeSupervisor (s : State) : State :=
  let w := Config.freeWord s.draws
  let f := s.writeMstatus w
  State.freeRegs
    (settle s { s with
      mstatus := { s.mstatus with
        sie := f.sie, spie := f.spie, spp := f.spp, vs := f.vs, fs := f.fs, sum := f.sum, mxr := f.mxr, tvm := f.tvm
        tsr := f.tsr, sxl := f.sxl, sbe := legalEndian s.cfg.sbe (w.getLsbD 36) }
      draws := s.draws + 1 })
    supervisorRegs

/-- The state of a re-enabled U-mode: its fields of `mstatus` and its registers, free (R106). -/
def State.freeUser (s : State) : State :=
  let f := s.writeMstatus (Config.freeWord s.draws)
  State.freeRegs
    { s with
      mstatus := { s.mstatus with mprv := f.mprv, tw := f.tw, ube := f.ube, uxl := f.uxl }
      draws := s.draws + 1 }
    userRegs

/-- The reservation of a re-enabled extension A: none, or one of any naturally aligned word or doubleword (R106, D43). -/
def State.drawReservation (s : State) : State :=
  let size := if s.mxlen == .x64 && Config.freeBit (s.draws + 1) then 8 else 4
  let address := (Config.freeWord (s.draws + 2)).toNat % 2 ^ s.cfg.palen
  { s with
    reservation := if Config.freeBit s.draws then none else some { base := address / size * size, size := size }
    draws := s.draws + 3 }

/-- Registers `x16` to `x31` of a re-enabled base I: free (R106; log 36). -/
def State.freeUpperX (s : State) : State :=
  { s with
    x := Vector.ofFn fun (k : Fin 32) =>
      if k.val < 16 then s.x[k.val] else sxTo s.mxlen (Config.freeWord (s.draws + k.val))
    draws := s.draws + 32 }

/-- The implemented modes (R31). -/
def State.modes (s : State) : List Priv :=
  .machine :: ((if s.hasS then [.supervisor] else []) ++ (if s.hasU then [.user] else []))

/-- MPP takes a free implemented mode where the set of modes is no longer that of `before` (R49, R117). -/
def State.freeMpp (s before : State) : State :=
  if s.modes = before.modes then s
  else { s with
    mstatus := { s.mstatus with mpp := s.modes.getD (Config.freeChoice s.draws % s.modes.length) .machine }
    draws := s.draws + 1 }

/-- The fields of modes that are not there are read-only zero (R114). So is SUM where `satp.MODE` is; where it was before
a change of MXLEN, SUM starts at 0 (R52, R122). -/
def State.dropAbsent (s before : State) : State :=
  { s with
    mstatus := { s.mstatus with
      sie := s.hasS && s.mstatus.sie, spie := s.hasS && s.mstatus.spie, spp := s.hasS && s.mstatus.spp
      vs := if s.hasS then s.mstatus.vs else 0, fs := if s.hasS then s.mstatus.fs else 0
      sum := before.pagedMode && s.pagedMode && s.mstatus.sum, mxr := s.hasS && s.mstatus.mxr, tvm := s.hasS && s.mstatus.tvm
      tsr := s.hasS && s.mstatus.tsr, mprv := s.hasU && s.mstatus.mprv, tw := s.hasU && s.mstatus.tw } }

/-- Bits of `mie`, `mip`, `medeleg` and `mideleg` that `before` did not have take free values, and those of `hideleg`
with them (R49, R106). -/
def State.freeGained (s before : State) : State :=
  let d := s.draws
  State.freeHideleg
    { s with
      m := { s.m with
        ie := merge (s.mieMask &&& ~~~before.mieMask) s.m.ie (Config.freeWord d)
        ip := merge (s.sBits &&& ~~~before.sBits) s.m.ip (Config.freeWord (d + 1))
        edeleg := merge (s.medelegMask &&& ~~~before.medelegMask) s.m.edeleg (Config.freeWord (d + 2))
        ideleg := merge (s.midelegMask &&& ~~~before.midelegMask) s.m.ideleg (Config.freeWord (d + 3)) }
      draws := d + 4 }
    before

/-- The extension bits a write of `misa` asks for, dependencies applied (R48, R105): S needs U, H needs S and I (R31,
R330). What a feature needs that is on and cannot be switched off stays on; a feature that lacks what it needs goes
off. -/
def State.legalExt (s : State) (v : Word) : BitVec 26 :=
  let w := s.cfg.misaWritable
  let bit (b : Nat) : BitVec 26 := BitVec.ofNat 26 (2 ^ b)
  let stuck (b : Nat) : Bool := s.ext.getLsbD b && !w.getLsbD b
  let asked := (s.ext &&& ~~~w) ||| (v.setWidth 26 &&& w)
  let keepsH := if stuck Config.bitH then asked ||| bit Config.bitI ||| bit Config.bitS else asked
  let keeps := if stuck Config.bitH || stuck Config.bitS then keepsH ||| bit Config.bitU else keepsH
  let dropsS := if keeps.getLsbD Config.bitU then keeps else keeps &&& ~~~bit Config.bitS
  if dropsS.getLsbD Config.bitS && dropsS.getLsbD Config.bitI then dropsS else dropsS &&& ~~~bit Config.bitH

/-- `f` applies where extension `b` is on and was off in `before`. -/
def State.onEnabled (s before : State) (b : Nat) (f : State → State) : State :=
  if !before.hasExt b && s.hasExt b then f s else s

/-- The state of what a write of `misa` switched on since `before` takes free values (R106), and with it the fields whose
legal values changed (R49). What is remembered of translations and PMP checks stays (DESIGN CHOICE, log 19). -/
def State.freeEnabled (s before : State) : State :=
  let a := (s.onEnabled before Config.bitA State.drawReservation).onEnabled before Config.bitI State.freeUpperX
  let u := (a.freeMpp before).onEnabled before Config.bitU State.freeUser
  let h := (u.onEnabled before Config.bitS State.freeSupervisor).onEnabled before Config.bitH State.freeHypervisor
  h.freeGained { before with mxl := s.mxl }

/-- A write of `misa` (R101 to R108). `s.pc` is the address of the next instruction: the write is suppressed
when it would leave that address misaligned (R107). -/
def State.writeMisa (s : State) (v : Word) : State :=
  let ext := s.legalExt v
  let suppressed := s.hasC && !ext.getLsbD Config.bitC && s.pc.getLsbD 1
  if !s.cfg.misaPresent || suppressed then s
  else
    let mxl := legalXl s.cfg.mxlWritable s.mxl (two v (s.mxl.bits - 2))
    ((settle s { s with ext := ext, mxl := mxl }).dropAbsent s).freeEnabled s

/-- `csr_write` (R721). -/
def State.csrWrite (s : State) (r : CsrReg) (v : Word) : Option State :=
  match r with
  | .misa => some (s.writeMisa v)
  | other => s.writeOther other v

end Sys2Proof.Machine
end

