-- ==== Sys2Proof/Machine/Zicsr.lean ====
section
/-! DEFINITION. The CSR instructions (40_csr_access.md R720 to R736). -/

namespace Sys2Proof.Machine

open Sys2Proof

/-- The instruction has completed but for its CSR write; one that writes `minstret` is not counted there (R160,
R722). -/
def State.retireBefore (s : State) (writes : Bool) (r : CsrReg) : State :=
  if writes && (r == .minstret || r == .minstreth) then s.setPc (s.pc + 4) else s.retire

/-- A CSR instruction with the word `w` (R720): check, read into `rd`, and, if it writes, store `f` of the held
value after the instruction has otherwise completed (R722). A write that a WLRL field refuses is an illegal
instruction without effect (R47, R729). -/
def State.csrOp (s : State) (w : BitVec 32) (rd : RegIdx) (a : BitVec 12) (writes : Bool) (f : Word → Word) :
    Out :=
  s.guarded w (s.csrCheck a writes) fun s =>
    match csrOf a with
    | none => .next (s.takeIllegal w)
    | some named =>
      let r := s.effectiveCsr named
      let done := (s.writeX rd (s.csrRead r)).retireBefore writes r
      if writes then
        match done.csrWrite r (zxTo s.xlen (f (s.csrStored r))) with
        | some t => .next t
        | none => .next (s.takeIllegal w)
      else .next done

/-- CSRRW (R730). -/
def execCsrrw (rd : RegIdx) (csr : BitVec 12) (rs1 : RegIdx) (s : State) : Out :=
  s.csrOp (encode (.csrrw rd csr rs1)) rd csr true fun _ => s.csrSource rs1

/-- CSRRS (R731): it writes unless `rs1` is `x0`. -/
def execCsrrs (rd : RegIdx) (csr : BitVec 12) (rs1 : RegIdx) (s : State) : Out :=
  s.csrOp (encode (.csrrs rd csr rs1)) rd csr (rs1 != 0) fun old => old ||| s.csrSource rs1

/-- CSRRC (R732). -/
def execCsrrc (rd : RegIdx) (csr : BitVec 12) (rs1 : RegIdx) (s : State) : Out :=
  s.csrOp (encode (.csrrc rd csr rs1)) rd csr (rs1 != 0) fun old => old &&& ~~~s.csrSource rs1

/-- CSRRWI (R733). -/
def execCsrrwi (rd : RegIdx) (csr : BitVec 12) (uimm : BitVec 5) (s : State) : Out :=
  s.csrOp (encode (.csrrwi rd csr uimm)) rd csr true fun _ => uimmOf uimm

/-- CSRRSI (R734): it writes unless the immediate is 0. -/
def execCsrrsi (rd : RegIdx) (csr : BitVec 12) (uimm : BitVec 5) (s : State) : Out :=
  s.csrOp (encode (.csrrsi rd csr uimm)) rd csr (uimm != 0) fun old => old ||| uimmOf uimm

/-- CSRRCI (R735). -/
def execCsrrci (rd : RegIdx) (csr : BitVec 12) (uimm : BitVec 5) (s : State) : Out :=
  s.csrOp (encode (.csrrci rd csr uimm)) rd csr (uimm != 0) fun old => old &&& ~~~uimmOf uimm

end Sys2Proof.Machine
end

