-- ==== Sys2Proof/Machine/Interrupt.lean ====
section
/-! DEFINITION. What happens between instructions: the environment's events and the counters (10_state.md R58,
R60), reset (70_reset_and_hazards.md R960, R964), the non-maskable interrupt and the selection of an interrupt
(60_exceptions.md R888 to R895, R905). -/

namespace Sys2Proof.Machine

open Sys2Proof

/-! ## The environment and the counters -/

/-- No event: the lines hold and no time passes. -/
def EnvEvent.quiet (l : Lines) : EnvEvent :=
  { lines := l, ticks := 0, nmi := false, reset := false, setSsip := false, writeMsip := none, specWalks := [] }

/-- The event of this step (log 6). -/
def State.event (s : State) : EnvEvent :=
  match s.env with
  | [] => EnvEvent.quiet s.lines
  | e :: _ => e

/-- The inputs as the event leaves them (R58, R894); the platform may set SSIP (R153), another hart or device may write
the MSIP bit (R30, R922), and speculative walks may fill the translation cache (R573). -/
def State.sample (s : State) (e : EnvEvent) : State :=
  e.specWalks.foldl State.speculate
    { s with
      lines := e.lines, mtime := s.mtime + BitVec.ofNat 64 e.ticks
      msip := e.writeMsip.getD s.msip, env := s.env.tail
      m := { s.m with ip := s.m.ip ||| flag e.setSsip 1 } }

/-- Counter `n` may count: its bit of `mcountinhibit` is clear (R167). -/
def State.counts (s : State) (n : Nat) : Bool := !s.m.countinhibit.getLsbD n

/-- The event counters as this step leaves them: each one that is implemented and not inhibited adds a free number of
the events selected; event 0 is no event (R162). -/
def State.countEvents (s : State) : Vector Word 29 :=
  if s.cfg.hpmImplemented = 0 then s.m.hpmcounter
  else
    Vector.ofFn fun (k : Fin 29) =>
      let n := k.val + 3
      let old := s.m.hpmcounter[k.val]
      if s.cfg.hpmImplemented.getLsbD n && s.counts n && s.hpmEvent n != 0 then
        (old + BitVec.ofNat 64 (Config.freeEvents s.draws (s.hpmEvent n) n)) &&& hpmMask s.cfg n
      else old

/-- The cycle and event counters advance (R160, R162): `mcycle` by one plus a free amount. -/
def State.tickCounters (s : State) : State :=
  { s with
    m := { s.m with
      cycle := if s.counts 0 then s.m.cycle + 1 + BitVec.ofNat 64 (Config.freeCycles s.draws) else s.m.cycle
      hpmcounter := s.countEvents }
    draws := s.draws + 1 }

/-- The state right before the step acts: inputs sampled, counters advanced. -/
def State.begin (s : State) : State := (s.sample s.event).tickCounters

/-! ## Reset and the non-maskable interrupt -/

/-- Reset of the hart (R960 to R964, D61): the hart's state as after power-on, with no translation and no PMP
result remembered; memory, the devices and the inputs stay (log 37). -/
def State.resetHart (s : State) : State :=
  { State.resetOf s.cfg with
    mem := s.mem, mtime := s.mtime, mtimecmp := s.mtimecmp, msip := s.msip
    lines := s.lines, env := s.env, draws := s.draws }

/-- The trap information of an interrupt (R894): every informative value is zero. -/
def State.interruptInfo (s : State) (code : Nat) : TrapInfo :=
  { isInt := true, code := code, epc := s.savedPc, tval := 0, tval2 := 0, gva := false, tinst := 0 }

/-- The NMI (R905, D57): as a trap into M-mode, at the NMI vector; it ends a WFI stall. -/
def State.takeNmi (s : State) : State :=
  { s.enterM (s.interruptInfo s.cfg.nmiCause.toNat) with
    pc := sxTo s.mxlen s.cfg.nmiVector, stalled := false }

/-! ## Interrupts -/

/-- Pending and individually enabled (R888). -/
def State.pending (s : State) : Word := s.mip &&& s.mie

/-- The destination of each pending interrupt (R888). -/
def State.toM (s : State) : Word := s.pending &&& ~~~s.mideleg
def State.toHS (s : State) : Word := s.pending &&& s.mideleg &&& ~~~s.hideleg
def State.toVS (s : State) : Word := s.pending &&& s.mideleg &&& s.hideleg

/-- M-level interrupts are enabled (R890). -/
def State.enabledM (s : State) : Bool := decide (s.priv ≠ .machine) || s.mstatus.mie

/-- S-level interrupts are enabled (R891). -/
def State.enabledS (s : State) : Bool :=
  match s.priv, s.virt with
  | .machine, _ => false
  | .supervisor, false => s.mstatus.sie
  | _, _ => true

/-- VS-level interrupts are enabled (R892, D53). -/
def State.enabledVS (s : State) : Bool :=
  match s.priv, s.virt with
  | .supervisor, true => s.vs.status.sie
  | .user, true => true
  | _, _ => false

/-- The standard codes in priority order (R893): MEI, MSI, MTI, SEI, SSI, STI, SGEI, VSEI, VSSI, VSTI. One list serves
every destination. It is the M-mode order that D28 decides, and it keeps the orders R269, R349 and R893 give for S-mode,
HS-mode and VS-mode. Those name no machine-level interrupt; that a delegated MEI, MSI or MTI goes first in S-mode too is
the model's (DESIGN CHOICE, log 48). -/
def standardOrder : List Nat := [11, 3, 7, 9, 1, 5, 12, 10, 2, 6]

/-- The platform codes, highest first (R893, D56). -/
def platformOrder : List Nat := ((List.range 48).map (· + 16)).reverse

/-- The interrupt of a set that goes first (R893). In the set destined for S-mode a delegated machine-level interrupt
goes before SEI, SSI and STI (DESIGN CHOICE, log 48). -/
def pickInterrupt (platformFirst : Bool) (set : Word) : Option Nat :=
  let standard := standardOrder.find? fun i => set.getLsbD i
  let platform := platformOrder.find? fun i => set.getLsbD i
  if platformFirst then platform.or standard else standard.or platform

/-- The interrupt to take, with its destination: M-mode before S-mode before VS-mode (R893). -/
def State.interrupt (s : State) : Option (Dest × Nat) :=
  let pick (d : Dest) (on : Bool) (set : Word) : Option (Dest × Nat) :=
    if on then (pickInterrupt s.cfg.platformFirst set).map fun i => (d, i) else none
  (pick .m s.enabledM s.toM).or ((pick .s s.enabledS s.toHS).or (pick .vs s.enabledVS s.toVS))

/-- Take interrupt `code` into `d` (R880, R882, R894). Its pending bit stays (R895). -/
def State.takeInterrupt (s : State) (d : Dest) (code : Nat) : State := s.enter d (s.interruptInfo code)

/-! ## WFI -/

/-- A stalled hart goes on sleeping: no interrupt requires it to resume, and no spurious wake-up is drawn
(R756). -/
def State.sleeps (s : State) : Bool := s.stalled && !(s.wakeRequired || Config.freeBit s.draws)

/-- The hart is no longer stalled. -/
def State.awake (s : State) : State := if s.stalled then { s with stalled := false, draws := s.draws + 1 } else s

end Sys2Proof.Machine
end

