-- ==== Sys2Proof/Machine/Run.lean ====
section
/-! DEFINITION. One turn of the machine: events, reset, NMI, stall, interrupt, fetch, decode, execute
(60_exceptions.md R894, 20_memory.md R503, 30_encoding.md R680, R687, R688). -/

namespace Sys2Proof.Machine

open Sys2Proof

/-- The integer registers an instruction names and uses; the fields `rs1` and `rd` of FENCE and FENCE.I, which have no
effect (R1005), name none (DESIGN CHOICE, log 36). -/
def instrRegs : Instr → List RegIdx
  | .ecall => []
  | .ebreak => []
  | .sret => []
  | .mret => []
  | .wfi => []
  | .sfenceVma rs1 rs2 => [rs1, rs2]
  | .sinvalVma rs1 rs2 => [rs1, rs2]
  | .sfenceWInval => []
  | .sfenceInvalIr => []
  | .hfenceVvma rs1 rs2 => [rs1, rs2]
  | .hfenceGvma rs1 rs2 => [rs1, rs2]
  | .hinvalVvma rs1 rs2 => [rs1, rs2]
  | .hinvalGvma rs1 rs2 => [rs1, rs2]
  | .hlvB rd rs1 => [rd, rs1]
  | .hlvBu rd rs1 => [rd, rs1]
  | .hlvH rd rs1 => [rd, rs1]
  | .hlvHu rd rs1 => [rd, rs1]
  | .hlvW rd rs1 => [rd, rs1]
  | .hlvWu rd rs1 => [rd, rs1]
  | .hlvD rd rs1 => [rd, rs1]
  | .hlvxHu rd rs1 => [rd, rs1]
  | .hlvxWu rd rs1 => [rd, rs1]
  | .hsvB rs1 rs2 => [rs1, rs2]
  | .hsvH rs1 rs2 => [rs1, rs2]
  | .hsvW rs1 rs2 => [rs1, rs2]
  | .hsvD rs1 rs2 => [rs1, rs2]
  | .csrrw rd _ rs1 => [rd, rs1]
  | .csrrs rd _ rs1 => [rd, rs1]
  | .csrrc rd _ rs1 => [rd, rs1]
  | .csrrwi rd _ _ => [rd]
  | .csrrsi rd _ _ => [rd]
  | .csrrci rd _ _ => [rd]
  | .lui rd _ => [rd]
  | .auipc rd _ => [rd]
  | .jal rd _ => [rd]
  | .jalr rd rs1 _ => [rd, rs1]
  | .beq rs1 rs2 _ => [rs1, rs2]
  | .bne rs1 rs2 _ => [rs1, rs2]
  | .blt rs1 rs2 _ => [rs1, rs2]
  | .bge rs1 rs2 _ => [rs1, rs2]
  | .bltu rs1 rs2 _ => [rs1, rs2]
  | .bgeu rs1 rs2 _ => [rs1, rs2]
  | .lb rd rs1 _ => [rd, rs1]
  | .lh rd rs1 _ => [rd, rs1]
  | .lw rd rs1 _ => [rd, rs1]
  | .ld rd rs1 _ => [rd, rs1]
  | .lbu rd rs1 _ => [rd, rs1]
  | .lhu rd rs1 _ => [rd, rs1]
  | .lwu rd rs1 _ => [rd, rs1]
  | .sb rs1 rs2 _ => [rs1, rs2]
  | .sh rs1 rs2 _ => [rs1, rs2]
  | .sw rs1 rs2 _ => [rs1, rs2]
  | .sd rs1 rs2 _ => [rs1, rs2]
  | .addi rd rs1 _ => [rd, rs1]
  | .slti rd rs1 _ => [rd, rs1]
  | .sltiu rd rs1 _ => [rd, rs1]
  | .xori rd rs1 _ => [rd, rs1]
  | .ori rd rs1 _ => [rd, rs1]
  | .andi rd rs1 _ => [rd, rs1]
  | .slli rd rs1 _ => [rd, rs1]
  | .srli rd rs1 _ => [rd, rs1]
  | .srai rd rs1 _ => [rd, rs1]
  | .add rd rs1 rs2 => [rd, rs1, rs2]
  | .sub rd rs1 rs2 => [rd, rs1, rs2]
  | .sll rd rs1 rs2 => [rd, rs1, rs2]
  | .slt rd rs1 rs2 => [rd, rs1, rs2]
  | .sltu rd rs1 rs2 => [rd, rs1, rs2]
  | .xor rd rs1 rs2 => [rd, rs1, rs2]
  | .srl rd rs1 rs2 => [rd, rs1, rs2]
  | .sra rd rs1 rs2 => [rd, rs1, rs2]
  | .or rd rs1 rs2 => [rd, rs1, rs2]
  | .and rd rs1 rs2 => [rd, rs1, rs2]
  | .addiw rd rs1 _ => [rd, rs1]
  | .addw rd rs1 rs2 => [rd, rs1, rs2]
  | .subw rd rs1 rs2 => [rd, rs1, rs2]
  | .fence _ _ _ _ _ => []
  | .fenceI _ _ _ => []

/-- The instruction bits an illegal-instruction exception reports (R178): 32 bits, or the one 16-bit parcel that
was fetched. -/
def fetchedWord : List Byte → BitVec 32
  | [b0, b1] => (halfOfBytes b0 b1).setWidth 32
  | b0 :: b1 :: b2 :: b3 :: _ => wordOfBytes b0 b1 b2 b3
  | _ => 0

/-- The integer registers exist: with the base I disabled (RV32E) only `x0` to `x15` do (R104, R1000; log 36). -/
def State.xExist (s : State) (l : List RegIdx) : Bool :=
  s.hasExt Config.bitI || l.all fun r => decide (r.toNat < 16)

/-- The word `w` belongs to a Volume I extension that is enabled, at a width where it exists (R1007), and its registers
exist. -/
def State.volumeOneOn (s : State) (w : BitVec 32) (e : VolumeOne) : Bool :=
  let rv64 := s.xlen == .x64
  (match e with
    | .m => s.hasExt Config.bitM && (opcodeOf w != 0b0111011#7 || rv64)
    | .a => s.hasExt Config.bitA && (funct3Of w == 2 || rv64)
    | .c => s.hasC && rvcDefined rv64 (w.setWidth 16)
    | .wShift => rv64)
  && s.xExist (volumeOneRegs rv64 w e)

/-- The instruction is usable here: a 16-bit one needs C, its registers must exist. -/
def State.usable (s : State) (i : Instr) (len : Nat) : Bool := (len == 4 || s.hasC) && s.xExist (instrRegs i)

/-- Decode and execute fetched bytes. A word no rule defines is an illegal instruction (R687). -/
def State.runBytes (s : State) (bytes : List Byte) : Out :=
  let w := fetchedWord bytes
  match decodeBytes bytes with
  | .instr i len => if s.usable i len then exec i s else .next (s.takeIllegal w)
  | .rejected (.volumeOne e) => if s.volumeOneOn w e then .refused (.volumeOne e) else .next (s.takeIllegal w)
  | .rejected .reserved => .next (s.takeIllegal w)
  | .rejected .truncated => .next (s.takeIllegal w)

/-- Fetch at `pc` and run (R503). -/
def State.fetchAndRun (s : State) : Out :=
  match s.fetch with
  | .ok bytes t => t.runBytes bytes
  | .exn e t => .next (t.takeException 0 e)

/-- Take an interrupt if one is due, else run one instruction (R894). -/
def State.runNext (s : State) : Out :=
  match s.interrupt with
  | some (d, i) => .next (s.takeInterrupt d i)
  | none => s.fetchAndRun

/-- What follows the events of a step, given its event: reset, NMI, a stalled cycle, or the next instruction. -/
def State.act (s : State) (e : EnvEvent) : Out :=
  if e.reset then .next s.resetHart
  else if e.nmi then .next s.takeNmi
  else if s.sleeps then .next s.drew
  else s.awake.runNext

/-- A turn under the event `e`, if the configuration is one the spec allows (log 1). -/
def State.turn (s : State) (e : EnvEvent) : Out :=
  if s.cfg.wf then s.begin.act e else .fault .illegalConfig

end Sys2Proof.Machine
end

