-- ==== Sys2Proof/Machine/Step.lean ====
section
/-! DEFINITION. The step (60_exceptions.md R894) and the placing of an instruction where it fetches. -/

namespace Sys2Proof.Machine

open Sys2Proof

/-- One step: an instruction, a trap entry, a reset, or a stalled cycle, under the event `s.event`. -/
def step (s : State) : Host.Outcome State Fault Refusal :=
  match s.env with
  | [] => s.turn (EnvEvent.quiet s.lines)
  | e :: _ => s.turn e

/-- `s` with the instruction whose low `nbits` bits are `w` stored where `step` fetches (log 41). -/
def State.withFetchWord (s : State) (nbits w : Nat) : State :=
  s.writeAt s.fetchAddrs (bytesOfWord (BitVec.ofNat 32 (w % 2 ^ nbits)))

end Sys2Proof.Machine
end

