-- ==== Sys2Proof/Safety.lean ====
section
/-! DEFINITION. The terms the statements use: what counts as a safe run, how an instruction ends, the relations
that say which state is unchanged, and the invariants of the machine's state. -/

namespace Sys2Proof.Machine

open Sys2Proof

/-- A step does not fault. -/
def Safe (s : State) : Prop := ∀ r, step s ≠ .fault r

/-! ## Values at a width -/

/-- The low XLEN bits as a signed and as an unsigned number. -/
def intOf (xl : Xlen) (w : Word) : Int := (sxTo xl w).toInt
def natOf (xl : Xlen) (w : Word) : Nat := (zxTo xl w).toNat

/-! ## How an instruction ends -/

/-- `minstret` after one more retired instruction (R160, R167). -/
def State.nextInstret (s : State) : Word := if s.m.countinhibit.getLsbD 2 then s.m.instret else s.m.instret + 1

/-- The register `rd` holds `v` at the current width, `x0` holds zero, every other register is unchanged. -/
def State.Wrote (s t : State) (rd : RegIdx) (v : Word) : Prop :=
  ∀ r, t.readX r = if r = 0 then 0 else if r = rd then sxTo s.xlen v else s.readX r

/-- Everything but the general registers, `pc` and `minstret` is unchanged. -/
def State.Done (s t : State) (target : Word) : Prop :=
  t = { s with x := t.x, pc := sxTo s.xlen target, m := { s.m with instret := s.nextInstret } }

/-- Every byte of memory reads as before. -/
def State.SameMemory (s t : State) : Prop := ∀ a, t.readPhys a = s.readPhys a

/-- Instruction `i` in `s` answers a next state: `base` with `rd` written, at `target`. -/
def EndsWith (i : Instr) (s base : State) (rd : RegIdx) (v target : Word) : Prop :=
  ∃ t, exec i s = .next t ∧ base.Wrote t rd v ∧ base.Done t target ∧ base.SameMemory t

/-- Instruction `i` in `s` writes `v` to `rd`, goes on at `target` and changes nothing else. -/
def Completes (i : Instr) (s : State) (rd : RegIdx) (v target : Word) : Prop := EndsWith i s s rd v target

/-- Every byte of memory is as before, or is the low byte of a valid leaf entry (V = 1, and R or X) whose accessed bit, or
accessed and dirty bits, are now set (R554, R562). -/
def State.OnlyAccessedDirtySet (s t : State) : Prop :=
  ∀ a, t.readPhys a = s.readPhys a
    ∨ ((s.readPhys a).getLsbD 0 = true ∧ ((s.readPhys a).getLsbD 1 = true ∨ (s.readPhys a).getLsbD 3 = true)
      ∧ (t.readPhys a = s.readPhys a ||| 0x40#8 ∨ t.readPhys a = s.readPhys a ||| 0xC0#8))

/-- What a translation may leave behind (R562, R570): the cache, drawn values, and A and D bits in memory, these
only where the hardware updates them. -/
def State.TranslatedTo (s t : State) : Prop :=
  t = { s with
      tc := t.tc, draws := t.draws, mem := t.mem, mtime := t.mtime, mtimecmp := t.mtimecmp, msip := t.msip }
    ∧ (s.cfg.adUpdate = .fault → s.SameMemory t)
    ∧ (Memory.wf s.mem = true → s.OnlyAccessedDirtySet t)

/-- Everything but CSRs, cached PMP results, general registers, `pc`, the reservation and the draw counter is
unchanged. -/
def State.SameOutsideCsrs (s t : State) : Prop :=
  t.cfg = s.cfg ∧ t.priv = s.priv ∧ t.virt = s.virt ∧ t.lines = s.lines ∧ t.mtime = s.mtime
    ∧ t.mtimecmp = s.mtimecmp ∧ t.msip = s.msip ∧ t.stalled = s.stalled ∧ t.tc = s.tc ∧ t.env = s.env
    ∧ s.SameMemory t

/-- Everything an exception entry may not write is unchanged (R880, R882). -/
def State.SameOutsideTrap (s t : State) : Prop :=
  t = { s with
    mstatus := t.mstatus, m := t.m, s := t.s, h := t.h, vs := t.vs, priv := t.priv, virt := t.virt, pc := t.pc }

/-! ## What a trap saves -/

/-- A register of these addresses holds `w` after `v` is written to it by a trap: the low bits at 32 bits, `v` at 64 bits
where it is one of the addresses (R170, R177). -/
def HeldAs (set : AddrSet) (xl : Xlen) (v w : Word) : Prop :=
  match xl, set with
  | .x32, _ => w = zxTo .x32 v
  | .x64, .all => w = v
  | .x64, .bits k => signExtendsFrom k v = true → w = v

/-- `w` is the saved program counter of a trap: the address held, with bit 0 clear, and bit 1 clear where IALIGN can only
be 32 (R170, R864). -/
def SavedPc (c : Config) (xl : Xlen) (pc w : Word) : Prop :=
  ∃ held, HeldAs c.xepcLegal xl pc held
    ∧ w = held &&& ~~~(if c.misaExt.getLsbD Config.bitC then 1#64 else 3#64)

/-- The program counter as a trap saves it: sign-extended from the XLEN of the mode, as it is held, or zero-extended (log
43). -/
def State.pcAtTrap (s : State) : Word := if s.cfg.epcZeroExtends = true then zxTo s.xlen s.pc else s.pc

/-- `w` is what `mtval` holds after a trap that writes `v` (R176). -/
def SavedMtval (c : Config) (xl : Xlen) (v w : Word) : Prop :=
  if c.mtvalReadOnlyZero then w = 0 else HeldAs c.xtvalLegal xl v w

/-- `t` is in the handler of an exception taken in `s`: the trap registers of the destination hold the program counter,
the exception code and the trap value (R880, R882). -/
def State.TrapSaved (s t : State) (pc tval : Word) (code : Nat) : Prop :=
  match t.priv, t.virt with
  | .machine, _ =>
    SavedPc s.cfg s.mxlen pc t.m.epc ∧ t.m.cause = BitVec.ofNat 64 code ∧ SavedMtval s.cfg s.mxlen tval t.m.tval
  | _, false =>
    SavedPc s.cfg s.sxlen pc t.s.epc ∧ t.s.cause = BitVec.ofNat 64 code
      ∧ HeldAs s.cfg.xtvalLegal s.sxlen tval t.s.tval
  | _, true =>
    SavedPc s.cfg s.vsxlen pc t.vs.epc ∧ t.vs.cause = BitVec.ofNat 64 code
      ∧ HeldAs s.cfg.xtvalLegal s.vsxlen tval t.vs.tval

/-- What reset leaves (R960); the PMP entries to which the platform gives another value have that one. -/
def State.AfterReset (t : State) : Prop :=
  t.priv = .machine ∧ t.virt = false ∧ t.mstatus.mie = false ∧ t.mstatus.mprv = false
    ∧ (t.cfg.mbe ≠ .bigOnly → t.mbe = false)
    ∧ t.mxl = t.cfg.widest ∧ t.ext = t.cfg.misaExt ∧ t.reservation = none ∧ t.pc = t.cfg.resetVector
    ∧ t.m.cause = t.cfg.resetCause
    ∧ (∀ i, t.cfg.pmpReset.lookup i = none → pmpA (t.pmpCfg i) = 0 ∧ pmpLocked (t.pmpCfg i) = false)
    ∧ (t.cfg.wf = true → ∀ i e, t.cfg.pmpReset.lookup i = some e → t.pmpCfg i = e.1 ∧ t.pmpAddrRaw i = e.2)
    ∧ atpMode t.sxlen t.h.gatp = 0 ∧ atpMode t.vsxlen t.vs.atp = 0

/-! ## Memory accesses, fences and CSR instructions -/

/-- Address `a` is no device register. -/
def State.plainAddr (s : State) (a : Nat) : Bool :=
  !inRange a s.cfg.mtimeAddr 8 && !inRange a s.cfg.mtimecmpAddr 8 && !inRange a s.cfg.msipAddr 4

/-- The loads with their width, sign and whether they are RV64-only (R1003). -/
def plainLoads : List ((RegIdx → RegIdx → BitVec 12 → Instr) × Nat × Bool × Bool) :=
  [(Instr.lb, 1, true, false), (Instr.lh, 2, true, false), (Instr.lw, 4, true, false),
   (Instr.ld, 8, true, true), (Instr.lbu, 1, false, false), (Instr.lhu, 2, false, false),
   (Instr.lwu, 4, false, true)]

/-- The stores with their width and whether they are RV64-only (R1003). -/
def plainStores : List ((RegIdx → RegIdx → BitVec 12 → Instr) × Nat × Bool) :=
  [(Instr.sb, 1, false), (Instr.sh, 2, false), (Instr.sw, 4, false), (Instr.sd, 8, true)]

/-- The virtual-machine loads: width, sign, RV64-only, execute permission (R827 to R835). -/
def guestLoads : List ((RegIdx → RegIdx → Instr) × Nat × Bool × Bool × Bool) :=
  [(Instr.hlvB, 1, true, false, false), (Instr.hlvBu, 1, false, false, false),
   (Instr.hlvH, 2, true, false, false), (Instr.hlvHu, 2, false, false, false),
   (Instr.hlvW, 4, true, false, false), (Instr.hlvWu, 4, false, true, false),
   (Instr.hlvD, 8, true, true, false), (Instr.hlvxHu, 2, false, false, true),
   (Instr.hlvxWu, 4, false, false, true)]

/-- The virtual-machine stores (R836 to R839). -/
def guestStores : List ((RegIdx → RegIdx → Instr) × Nat × Bool) :=
  [(Instr.hsvB, 1, false), (Instr.hsvH, 2, false), (Instr.hsvW, 4, false), (Instr.hsvD, 8, true)]

/-- The value of bytes in address order under a byte order, extended to 64 bits (R455, R1003). -/
def loadedValue (big signed : Bool) (bytes : List Byte) : Word :=
  let v := ofBytes (if big then bytes.reverse else bytes)
  if signed then sextBytes bytes.length v else zextBytes bytes.length v

/-- What a store leaves, from the state `t` after translation: the low bytes of `v` at the addresses `pas`, in the
byte order `big`, where they are consecutive and no device registers; every other byte of memory as before; no
register written (R455, R1003). -/
def Stored (i : Instr) (s t : State) (big : Bool) (n : Nat) (v : Word) (pas : List Nat) (target : Word) : Prop :=
  ∃ u, exec i s = .next u
    ∧ u = { t with
        mem := u.mem, mtime := u.mtime, mtimecmp := u.mtimecmp, msip := u.msip
        pc := sxTo t.xlen target, m := { t.m with instret := t.nextInstret } }
    ∧ (∀ a, a ∉ pas → u.readPhys a = t.readPhys a)
    ∧ (∀ p, pas = addrsFrom p n → (∀ a ∈ pas, t.plainAddr a = true) →
        ∀ k, k < n → u.readPhys (p + k) = byteOf v (if big then n - 1 - k else k))

/-- The conditions under which HLV, HLVX and HSV execute (R821, R822). -/
def GuestAccessPermitted (s : State) (rv64 : Bool) : Prop :=
  s.hasH = true ∧ s.virt = false ∧ (s.priv = .user → s.h.status.hu = true) ∧ (rv64 = true → s.xlen = .x64)

/-- A translation-cache entry is selected by an address and an address space, each possibly all (R571; log 51). -/
def FenceSelects (e : TcEntry) (addr : Option Word) (space : Option Nat) : Prop :=
  (∀ a, addr = some a → e.covers a.toNat = true) ∧ (∀ n, space = some n → e.asid = n ∧ e.isGlobal = false)

/-- `t` is `s` after a fence that removed exactly the cache entries `gone`, and with them, where it fenced everything, the
cached PMP results of accesses with V = 0 (`pmp`) or of guest accesses (`pmpG`) (R481, R660). -/
def State.FencedTo (s t : State) (gone : TcEntry → Prop) (pmp pmpG : Bool) : Prop :=
  (∀ e, e ∈ t.tc ↔ e ∈ s.tc ∧ ¬ gone e)
    ∧ t = { s with
        tc := t.tc, pmpStale := if pmp then [] else s.pmpStale, pmpStaleG := if pmpG then [] else s.pmpStaleG
        pc := sxTo s.xlen (s.pc + 4), m := { s.m with instret := s.nextInstret } }

/-- The six CSR instructions with whether they write and what they compute from the held value (R720). -/
def csrForms (s : State) (rd : RegIdx) (a : BitVec 12) (rs1 : RegIdx) : List (Instr × Bool × (Word → Word)) :=
  [(.csrrw rd a rs1, true, fun _ => zxTo s.xlen (s.readX rs1)),
   (.csrrs rd a rs1, rs1 != 0, fun old => old ||| zxTo s.xlen (s.readX rs1)),
   (.csrrc rd a rs1, rs1 != 0, fun old => old &&& ~~~zxTo s.xlen (s.readX rs1)),
   (.csrrwi rd a rs1, true, fun _ => rs1.setWidth 64),
   (.csrrsi rd a rs1, rs1 != 0, fun old => old ||| rs1.setWidth 64),
   (.csrrci rd a rs1, rs1 != 0, fun old => old &&& ~~~rs1.setWidth 64)]

/-- A cause register of `n` bits traps on a write of `v`: its policy is to trap (R47), and the code is above what its
Exception Code holds, or is none of 0 to 31, none of the platform's interrupts and none of its `own` (R173, R283). -/
def State.RefusesCode (s : State) (p : CausePolicy) (n : Nat) (own : List Nat) (v : Word) : Prop :=
  ∃ bits, p = .trapUnsupported bits ∧
    let code := v.toNat % 2 ^ (n - 1)
    2 ^ bits ≤ code
      ∨ (32 ≤ code ∧ ¬ (v.getLsbD (n - 1) = true ∧ s.platBits.getLsbD code = true) ∧ code ∉ own)

/-- A write of `v` to `r` traps because of a WLRL field (R47, R729): the Exception Code of a cause register, where that of
`mcause` holds the codes of the NMI and of reset too, or `hstatus.VGEIN` above `GEILEN` (R336). -/
def State.RefusesWlrl (s : State) (r : CsrReg) (v : Word) : Prop :=
  match r with
  | .mcause =>
    s.RefusesCode s.cfg.mcausePolicy s.mxlen.bits
      [s.cfg.nmiCause.toNat, s.cfg.resetCause.toNat % 2 ^ (s.mxlen.bits - 1)] v
  | .scause => s.RefusesCode s.cfg.scausePolicy s.sxlen.bits [] v
  | .vscause => s.RefusesCode s.cfg.vscausePolicy s.vsxlen.bits [] v
  | .hstatus =>
    s.cfg.vgeinTraps = true ∧ (s.cfg.geilen = 0 → s.cfg.vgeinReadOnlyZero = false)
      ∧ s.cfg.geilen < v.toNat / 2 ^ 12 % 2 ^ 6
  | _ => False

/-! ## Page-table walks -/

/-- The entry a walk reads in the table at `a` of `level` is the one that this part of the address selects (R551, R552
step 2); the root of the G-stage takes two more bits of the address (R632). -/
def Walk.entryAddr (w : Walk) (level a : Nat) : Nat :=
  let sc := w.stage.scheme
  let bits := sc.vpnBits + (if level + 1 = sc.levels then w.stage.extra else 0)
  a + w.va / 2 ^ (12 + sc.vpnBits * level) % 2 ^ bits * sc.pteSize

/-- The PPN of an entry: bits 31:10 of a 4-byte one, bits 53:10 of an 8-byte one (R554). -/
def Scheme.ppnOf (sc : Scheme) (p : Word) : Nat := p.toNat / 1024 % 2 ^ (if sc.pteSize = 4 then 22 else 44)

/-- An entry of memory with V = 0, or with a reserved bit or encoding, at `level` (R552 step 3, R561, R580, R590). -/
def State.EntryInvalid (s : State) (st : Stage) (level : Nat) (p : Word) : Prop :=
  let leaf : Bool := p.getLsbD 1 || p.getLsbD 3
  p.getLsbD 0 = false
    ∨ (p.getLsbD 1 = false ∧ p.getLsbD 2 = true)
    ∨ (leaf = false ∧ s.cfg.nonleafDauFault = true
        ∧ (p.getLsbD 4 = true ∨ p.getLsbD 6 = true ∨ p.getLsbD 7 = true))
    ∨ (st.scheme.pteSize = 8
        ∧ (p.extractLsb' 54 7 ≠ 0#7
          ∨ (p.getLsbD 63 = true
              ∧ ¬ (s.cfg.svnapot = true ∧ leaf = true ∧ level = 0 ∧ p.extractLsb' 10 4 = 8#4))
          ∨ (p.extractLsb' 61 2 ≠ 0#2 ∧ ¬ (st.pbmte = true ∧ leaf = true ∧ p.extractLsb' 61 2 ≠ 3#2))))

/-- A leaf grants the access (R556, R557, R559). -/
def LeafGrants (st : Stage) (kind : AccKind) (hlvx : Bool) (p : Word) : Prop :=
  (if st.priv = .user then p.getLsbD 4 = true else p.getLsbD 4 = false ∨ (st.sum = true ∧ kind ≠ .fetch))
    ∧ match kind with
      | .fetch => p.getLsbD 3 = true
      | .load =>
        if hlvx then p.getLsbD 3 = true else p.getLsbD 1 = true ∨ (st.mxr = true ∧ p.getLsbD 3 = true)
      | .store => p.getLsbD 2 = true

/-- The access to the entry at `q` passes PMP and PMA. -/
def State.entryAllowed (s : State) (w : Walk) (q : Nat) (isWrite : Bool) : Bool :=
  s.ptwAllowed w { pa := q, pbmt := 0 } isWrite

/-- A walk whose entries are at physical addresses comes to the table at `a` of `level`: from the root, by entries that
are pointers (R552 steps 1 to 4). -/
inductive State.WalkReaches (s : State) (w : Walk) : Nat → Nat → Prop
  | root : s.WalkReaches w (w.stage.scheme.levels - 1) w.stage.root
  | down (level a : Nat) :
      s.WalkReaches w (level + 1) a →
      s.entryAllowed w (w.entryAddr (level + 1) a) false = true →
      ¬ s.EntryInvalid w.stage (level + 1) (s.readPte w.stage (w.entryAddr (level + 1) a)) →
      (s.readPte w.stage (w.entryAddr (level + 1) a)).getLsbD 1 = false →
      (s.readPte w.stage (w.entryAddr (level + 1) a)).getLsbD 3 = false →
      s.WalkReaches w level
        (w.stage.scheme.ppnOf (s.readPte w.stage (w.entryAddr (level + 1) a)) * 4096)

/-- Where a leaf at `level` maps the address (R552 step 8); a NAPOT leaf maps 64 KiB (R580). -/
def Walk.mapped (w : Walk) (level : Nat) (p : Word) : Mapping :=
  let sc := w.stage.scheme
  { pa :=
      if sc.pteSize = 8 ∧ p.getLsbD 63 = true then sc.ppnOf p / 16 * 65536 + w.va % 65536
      else sc.ppnOf p * 4096 + w.va % 2 ^ (12 + sc.vpnBits * level)
    pbmt := (p.extractLsb' 61 2).toNat }

/-- What the entry `p` at `q`, read at `level`, makes of a walk that comes to it (R552 steps 2 to 8, R562). A translation
is answered as `f` of the address. -/
def State.WalkEnds {α : Type} (s : State) (w : Walk) (level q : Nat) (p : Word) (f : Mapping → α) (r : Res α) : Prop :=
  let leaf : Bool := p.getLsbD 1 || p.getLsbD 3
  let good : Prop := LeafGrants w.stage w.kind w.hlvx p
    ∧ w.stage.scheme.ppnOf p % 2 ^ (w.stage.scheme.vpnBits * level) = 0
  let ad : Word := if w.kind = .store then 0xC0#64 else 0x40#64
  (s.entryAllowed w q false = false → r = .exn w.af s)
    ∧ (s.entryAllowed w q false = true →
        (s.EntryInvalid w.stage level p ∨ (leaf = false ∧ level = 0) ∨ (leaf = true ∧ ¬ good) → r = .exn w.pf s)
          ∧ (¬ s.EntryInvalid w.stage level p → leaf = true → good →
              r = if p &&& ad = ad then .ok (f (w.mapped level p)) s
                else if s.cfg.adUpdate = .fault then .exn w.pf s
                else if s.entryAllowed w q true = false then .exn w.af s
                else .ok (f (w.mapped level p))
                  (s.writePhysN w.stage.bigEndian q w.stage.scheme.pteSize (p ||| ad))))

/-- The walk that `satp` controls (R550, R552). -/
def State.satpWalk (s : State) (sc : Scheme) (kind : AccKind) (p : Priv) (o : Orig) : Walk :=
  { stage :=
      { kind := .hs, scheme := sc, extra := 0
        root := s.s.atp.toNat % 2 ^ (if s.sxlen = .x32 then 22 else 44) * 4096
        asid := atpAsid s.sxlen s.s.atp, vmid := 0, bigEndian := s.sbe
        pbmte := s.cfg.svpbmt && s.m.pbmte, priv := p, sum := s.mstatus.sum, mxr := s.mstatus.mxr }
    kind := kind, hlvx := false, va := sc.vaOf o.va, pf := o.pageFault, af := o.accessFault, spec := false }

/-- The walk that `hgatp` controls, for the guest physical address `gpa` (R632 to R635, R640): each page is a user page,
SUM is no matter, the faults are guest-page faults. -/
def State.hgatpWalk (s : State) (sc : Scheme) (gpa : Nat) (kind : AccKind) (hlvx : Bool) (implicit : Option Bool)
    (o : Orig) : Walk :=
  { stage :=
      { kind := .g, scheme := sc, extra := 2
        root := s.h.gatp.toNat % 2 ^ (if s.sxlen = .x32 then 22 else 44) / 4 * 4 * 4096
        asid := 0, vmid := s.vmid, bigEndian := s.sbe
        pbmte := s.cfg.svpbmt && s.m.pbmte, priv := .user, sum := false, mxr := s.mstatus.mxr }
    kind := kind, hlvx := hlvx, va := gpa, pf := o.guestFault gpa implicit, af := o.accessFault, spec := false }

/-- The walk that `vsatp` controls (R640, R642, R643). -/
def State.vsatpWalk (s : State) (sc : Scheme) (kind : AccKind) (hlvx : Bool) (p : Priv) (o : Orig) : Walk :=
  { stage :=
      { kind := .vs, scheme := sc, extra := 0
        root := s.vs.atp.toNat % 2 ^ (if s.vsxlen = .x32 then 22 else 44) * 4096
        asid := atpAsid s.vsxlen s.vs.atp, vmid := s.vmid, bigEndian := s.vsbe
        pbmte := s.cfg.svpbmt && s.m.pbmte && s.h.pbmte, priv := p
        sum := s.vs.status.sum, mxr := s.vs.status.mxr || s.mstatus.mxr }
    kind := kind, hlvx := hlvx, va := sc.vaOf o.va, pf := o.pageFault, af := o.accessFault, spec := false }

/-- For the access `o`, the G-stage gives the VS-stage entry at the guest physical address `q` the place `pa`, where the
walk reads (or updates) it, and changes nothing (R643). -/
def State.EntryAt (s : State) (o : Orig) (q : Nat) (isWrite : Bool) (pa : Nat) : Prop :=
  ∃ pbmt, s.gTranslate q (if isWrite then .store else .load) false (some isWrite) o false
    = .ok { pa := pa, pbmt := pbmt } s

/-- A VS-stage walk comes to the table at the guest physical address `a` of `level`: from the root, by entries that are
pointers, each read where the G-stage puts it (R552 steps 1 to 4, R643). -/
inductive State.GuestWalkReaches (s : State) (w : Walk) (o : Orig) : Nat → Nat → Prop
  | root : s.GuestWalkReaches w o (w.stage.scheme.levels - 1) w.stage.root
  | down (level a pa : Nat) :
      s.GuestWalkReaches w o (level + 1) a →
      s.EntryAt o (w.entryAddr (level + 1) a) false pa →
      s.entryAllowed w pa false = true →
      ¬ s.EntryInvalid w.stage (level + 1) (s.readPte w.stage pa) →
      (s.readPte w.stage pa).getLsbD 1 = false →
      (s.readPte w.stage pa).getLsbD 3 = false →
      s.GuestWalkReaches w o level (w.stage.scheme.ppnOf (s.readPte w.stage pa) * 4096)

/-- No translation is remembered, and none will be (R570). -/
def State.noCache (s : State) : Prop := s.tc = [] ∧ s.cfg.tcRefill = false

/-- The guest physical address of the root entry that `vsatp` and a guest virtual address select (R643). -/
def State.vsRootEntry (s : State) (sc : Scheme) (va : Word) : Nat :=
  s.vs.atp.toNat % 2 ^ (if s.vsxlen = .x32 then 22 else 44) * 4096
    + va.toNat / 2 ^ (12 + sc.vpnBits * (sc.levels - 1)) % 2 ^ sc.vpnBits * sc.pteSize

/-! ## Views of other registers (R250, R265, R348, R396) -/

/-- The platform bit `i` is one that `hvip` can assert. -/
def State.hvipBit (s : State) (i : Nat) : Bool := s.hasH && decide (16 ≤ i) && s.cfg.hvipPlatformMask.getLsbD i

/-- `sip` and `sie` show bit `i` of `mip` and `mie`. -/
def State.sShows (s : State) (i : Nat) : Bool :=
  decide (i < s.sxlen.bits) && s.mideleg.getLsbD i && !decide (i ∈ [2, 6, 10, 12]) && !s.hvipBit i

/-- `hip` and `hie` show bit `i` of `mip` and `mie`. -/
def State.hShows (s : State) (i : Nat) : Bool :=
  decide (i < s.sxlen.bits)
    && ((s.hasH && (decide (i ∈ [2, 6, 10]) || (i == 12 && s.cfg.geilen != 0))) || (s.hvipBit i && s.mideleg.getLsbD i))

/-- `vsip` and `vsie` show bit `i` of `mip` and `mie`, the standard ones one place lower. -/
def State.vsShows (s : State) (i : Nat) : Bool := decide (i < s.vsxlen.bits) && s.hideleg.getLsbD i

/-- The bits of `mstatus` that `sstatus` shows at the same places (R250). -/
def sstatusBits : List Nat := [1, 5, 6, 8, 9, 10, 13, 14, 15, 16, 18, 19]

/-- The address `a` is that of unprivileged counter `n`, or of its high half (R43). -/
def CounterAddress (a : BitVec 12) (n : Nat) : Prop := n < 32 ∧ (a.toNat = 0xC00 + n ∨ a.toNat = 0xC80 + n)

/-! ## The order of the modes (R881) -/

/-- M > HS > VS > VU and HS > U. -/
def rankOf (p : Priv) (v : Bool) : Nat :=
  match p, v with
  | .machine, _ => 4
  | .supervisor, false => 3
  | .supervisor, true => 2
  | .user, true => 1
  | .user, false => 0

/-! ## Interrupts (R890 to R893) -/

/-- `take_M`, `take_HS` and `take_VS` of interrupt `i`. -/
def State.takesM (s : State) (i : Nat) : Bool :=
  s.mip.getLsbD i && s.mie.getLsbD i && !s.mideleg.getLsbD i && (s.priv != .machine || s.mstatus.mie)

def State.takesHS (s : State) (i : Nat) : Bool :=
  s.mip.getLsbD i && s.mie.getLsbD i && s.mideleg.getLsbD i && !s.hideleg.getLsbD i && s.priv != .machine
    && ((s.priv == .supervisor && !s.virt && s.mstatus.sie) || s.priv == .user || s.virt)

def State.takesVS (s : State) (i : Nat) : Bool :=
  s.mip.getLsbD i && s.mie.getLsbD i && s.mideleg.getLsbD i && s.hideleg.getLsbD i && s.virt
    && ((s.priv == .supervisor && s.vs.status.sie) || s.priv == .user)

/-- `take` for a destination. -/
def State.takes (s : State) (d : Dest) (i : Nat) : Bool :=
  match d with
  | .m => s.takesM i
  | .s => s.takesHS i
  | .vs => s.takesVS i

/-- The place of a code in the service order (R893; for delegated machine-level codes log 48): lower is served first. -/
def serviceRank (platformFirst : Bool) (i : Nat) : Nat :=
  if 16 ≤ i then (if platformFirst then 64 - i else 264 - i) else 100 + standardOrder.idxOf i

/-! ## Invariants -/

/-- The extensions in force: among those of the configuration, those that cannot be switched off all there (R105), and
each with what it needs: S with U, H with S and the base I (R31, R330). -/
def State.extLegal (s : State) : Bool :=
  (s.ext &&& ~~~s.cfg.misaExt == 0) && (s.ext &&& ~~~s.cfg.misaWritable == s.cfg.misaExt &&& ~~~s.cfg.misaWritable)
    && (!s.hasS || s.hasU) && (!s.hasH || (s.hasS && s.hasExt Config.bitI))

/-- A privilege level is implemented (R31). -/
def State.hasPriv (s : State) (p : Priv) : Bool :=
  match p with
  | .machine => true
  | .supervisor => s.hasS
  | .user => s.hasU

/-- The mode is one of R33: implemented, and with V = 1 only below M and with the hypervisor extension. -/
def State.modeLegal (s : State) : Bool := s.hasPriv s.priv && (!s.virt || (s.hasH && s.priv != .machine))

/-- The mode invariant: the mode and MPP are legal, and MPRV is 1 only in M-mode (R31, R33, R117, R120). -/
def State.ModeInv (s : State) : Prop :=
  s.cfg.wf = true ∧ s.extLegal = true ∧ s.modeLegal = true ∧ s.hasPriv s.mstatus.mpp = true
    ∧ (s.mstatus.mprv = true → s.priv = .machine)

/-- `pc` is IALIGN-aligned (R37, R107). -/
def State.pcAligned (s : State) : Bool := s.pc.toNat % s.ialign == 0

/-- The alignment invariant. -/
def State.PcInv (s : State) : Prop := s.cfg.wf = true ∧ s.extLegal = true ∧ s.pcAligned = true

end Sys2Proof.Machine
end

