-- ==== Sys2Proof/Certificates/Slice0/Obligations.lean ====
section
/-! DEFINITION. The statements for the provers. -/

open Sys2Proof Sys2Proof.Machine

/-! ## Encoding -/

/-- Decoding the bytes of an encoded well-formed instruction gives it back (R680 to R683, R1001). -/
def Obligations.DecodeEncodeRoundTrip : Prop :=
  ∀ i : Instr, i.WellFormed = true → decodeBytes (bytesOfWord (encode i)) = .instr i 4

/-- A word decodes to at most the one instruction whose encoding it is: no bit of a word is dropped (R684). -/
def Obligations.EncodeDecodedWord : Prop :=
  ∀ (w : BitVec 32) (i : Instr), decodeWord w = some i → encode i = w ∧ i.WellFormed = true

/-- Words written out from the spec decode to the instructions they stand for (R683, R694, R1002 to R1005). -/
def Obligations.SampleWordsDecode : Prop :=
  decodeTableWord 32 0x30200073 = some .mret
    ∧ decodeTableWord 32 0x12B50073 = some (.sfenceVma 10 11)
    ∧ decodeTableWord 32 0x6C05C573 = some (.hlvD 10 11)
    ∧ decodeTableWord 32 0x340FD073 = some (.csrrwi 0 0x340 31)
    ∧ decodeTableWord 32 0xFE029CE3 = some (.bne 5 0 0x1FF8)
    ∧ decodeTableWord 32 0xFFDFF06F = some (.jal 0 0x1FFFFC)
    ∧ decodeTableWord 32 0x00C5B423 = some (.sd 11 12 8)
    ∧ decodeTableWord 32 0x4032D293 = some (.srai 5 5 3)
    ∧ decodeTableWord 32 0x0FF0000F = some (.fence 0 15 15 0 0)

/-! ## The step -/

/-- A step runs the decoded instruction: with the events of the step sampled, no reset, no NMI, no stall and no
interrupt due, and the fetched bytes decoding to a usable instruction `i`, the step is `exec i` at the state the
fetch leaves (R503, R894). In M-mode with IALIGN = 32 the fetched bytes are the four at `pc`, where PMP and PMA
allow it. -/
def Obligations.StepRunsDecodedInstruction : Prop :=
  (∀ (s t : State) (bytes : List Byte) (i : Instr) (len : Nat),
      s.cfg.wf = true → s.event.reset = false → s.event.nmi = false → s.begin.sleeps = false →
      s.begin.awake.interrupt = none → s.begin.awake.fetch = .ok bytes t →
      decodeBytes bytes = .instr i len → t.usable i len = true →
      step s = exec i t)
  ∧ (∀ s : State, s.priv = .machine → s.hasC = false →
      s.physAllowed { kind := .fetch, n := 4 } .machine
        { pa := (zxTo s.mxlen s.pc).toNat, gPbmt := 0, sPbmt := 0 } 4 4 = true →
      s.fetch = .ok ((List.range 4).map fun k => s.readPhys ((zxTo s.mxlen s.pc).toNat + k)) s)

/-- Every instruction answers a next state in every state. -/
def Obligations.EveryInstructionAnswersNext : Prop := ∀ (i : Instr) (s : State), ∃ t, exec i s = .next t

/-- A step of a legal configuration never faults, and is refused only for an instruction of a Volume I extension,
which the spec does not supply (R1007): the bytes fetched are a word that the decoder places in that extension, and the
extension is on. -/
def Obligations.StepStopsOnlyForVolumeOne : Prop :=
  ∀ s : State, s.cfg.wf = true →
    Safe s
      ∧ ∀ r, step s = .refused r →
          ∃ (e : VolumeOne) (bytes : List Byte) (t : State),
            r = .volumeOne e ∧ s.begin.awake.fetch = .ok bytes t
              ∧ decodeBytes bytes = .rejected (.volumeOne e) ∧ t.volumeOneOn (fetchedWord bytes) e = true

/-! ## Invariants of every step -/

/-- Every step keeps the canonical form of memory. -/
def Obligations.StepKeepsMemoryCanonical : Prop :=
  ∀ s t : State, Memory.wf s.mem = true → step s = .next t → Memory.wf t.mem = true

/-- Every step keeps the mode legal, MPP an implemented mode, and MPRV clear below M-mode (R31, R33, R117,
R120). -/
def Obligations.StepKeepsModeLegal : Prop :=
  ∀ s t : State, s.ModeInv → step s = .next t → t.ModeInv

/-- Every step keeps `pc` IALIGN-aligned, also over a write of `misa` (R37, R107, R170). -/
def Obligations.StepKeepsPcAligned : Prop :=
  ∀ s t : State, s.PcInv → step s = .next t → t.PcInv

/-- A locked PMP entry stays locked and keeps its address until the hart is reset, and as a TOR entry it keeps the
address below it too; the address registers are narrowed where MXLEN is writable, so this is stated where it is not
(R477). -/
def Obligations.LockedPmpEntryStays : Prop :=
  ∀ (s t : State) (i : Nat), step s = .next t → s.event.reset = false → pmpLocked (s.pmpCfg i) = true →
    t.pmpCfg i = s.pmpCfg i
      ∧ (s.cfg.mxlWritable = false →
          t.pmpAddrRaw i = s.pmpAddrRaw i
            ∧ ∀ j, j + 1 = i → pmpA (s.pmpCfg i) = 1 → t.pmpAddrRaw j = s.pmpAddrRaw j)

/-- The state after reset meets the invariants. -/
def Obligations.ResetMeetsInvariants : Prop :=
  Memory.wf State.reset.mem = true ∧ State.reset.ModeInv ∧ State.reset.PcInv

/-- An instruction below M-mode that does not trap into M-mode leaves the machine's trap, delegation, counter and
PMP registers, the machine-only fields of `mstatus` and the bits of `mie` that no lower enable register shows (MSIE, MTIE
and MEIE unless they are delegated) alone, and of the bits stored for `mip` all but a delegated SSIP; SRET clears MPRV. One
that does leaves all but the trap registers and the trap stack of `mstatus` alone. `minstret` counts at most the
instruction (R32, R41, R250, R265, R268, R880). Which platform bits are shown where is log 33, and in `vsie` D27
(R345; log 48). -/
def Obligations.LowerModesKeepMachineState : Prop :=
  ∀ (i : Instr) (s t : State), s.priv ≠ .machine → exec i s = .next t →
    (t.m.tvec = s.m.tvec ∧ t.m.edeleg = s.m.edeleg ∧ t.m.ideleg = s.m.ideleg ∧ t.m.counteren = s.m.counteren
      ∧ t.m.countinhibit = s.m.countinhibit ∧ t.m.scratch = s.m.scratch ∧ t.m.fiom = s.m.fiom
      ∧ t.m.pbmte = s.m.pbmte ∧ t.m.cycle = s.m.cycle ∧ t.m.hpmcounter = s.m.hpmcounter
      ∧ t.m.hpmevent = s.m.hpmevent ∧ (t.m.instret = s.m.instret ∨ t.m.instret = s.nextInstret)
      ∧ t.pmpcfg = s.pmpcfg ∧ t.pmpaddr = s.pmpaddr ∧ t.ext = s.ext ∧ t.mxl = s.mxl
      ∧ t.mstatus.mbe = s.mstatus.mbe ∧ t.mstatus.sbe = s.mstatus.sbe ∧ t.mstatus.sxl = s.mstatus.sxl
      ∧ t.mstatus.tvm = s.mstatus.tvm ∧ t.mstatus.tw = s.mstatus.tw ∧ t.mstatus.tsr = s.mstatus.tsr
      ∧ (∀ k, s.sShows k = false → s.hShows k = false → s.vsShows k = false → t.m.ie.getLsbD k = s.m.ie.getLsbD k)
      ∧ (∀ k, k ≠ 1 ∨ s.sShows 1 = false → t.m.ip.getLsbD k = s.m.ip.getLsbD k)
      ∧ (i ≠ .sret → t.mstatus.mprv = s.mstatus.mprv) ∧ (t.mstatus.mprv = true → s.mstatus.mprv = true))
    ∧ (t.priv ≠ .machine →
        t.m.epc = s.m.epc ∧ t.m.cause = s.m.cause ∧ t.m.tval = s.m.tval ∧ t.m.tval2 = s.m.tval2
          ∧ t.m.tinst = s.m.tinst ∧ t.mstatus.mie = s.mstatus.mie ∧ t.mstatus.mpie = s.mstatus.mpie
          ∧ t.mstatus.mpp = s.mstatus.mpp ∧ t.mstatus.mpv = s.mstatus.mpv ∧ t.mstatus.gva = s.mstatus.gva)

/-- Only a trap entry or an xRET changes the mode: an instruction other than MRET and SRET keeps it, or ends in a
trap, taken from a state in the same mode (R33). -/
def Obligations.OnlyTrapsAndReturnsChangeMode : Prop :=
  ∀ (i : Instr) (s t : State), i ≠ .mret → i ≠ .sret → exec i s = .next t →
    (t.priv = s.priv ∧ t.virt = s.virt)
      ∨ ∃ (u : State) (e : Excn), u.priv = s.priv ∧ u.virt = s.virt ∧ t = u.takeException (encode i) e

/-! ## Traps -/

/-- Trap entry into M-mode, and into S-mode or HS-mode, writes these registers and nothing else; a trap into S-mode
leaves the machine's trap registers (R880). The vector is that of R884; bit 0 of the saved pc is R864; `mtval` may be
read-only zero (R176). That pc and trap value are cut to the receiving width is D54, which the model follows (R885; log
43). What becomes of the reservation, which R880 leaves to D55, is not stated. -/
def Obligations.TrapEntryMachineAndSupervisor : Prop :=
  (∀ (s : State) (info : TrapInfo),
      let t := s.enterM info
      t.mstatus.mpie = s.mstatus.mie ∧ t.mstatus.mie = false ∧ t.mstatus.mpp = s.priv
        ∧ (s.hasH = true → t.mstatus.mpv = s.virt ∧ t.mstatus.gva = info.gva
            ∧ t.m.tval2 = zxTo s.mxlen info.tval2 ∧ t.m.tinst = info.tinst)
        ∧ (s.hasH = false → t.mstatus.mpv = s.mstatus.mpv ∧ t.mstatus.gva = s.mstatus.gva
            ∧ t.m.tval2 = s.m.tval2 ∧ t.m.tinst = s.m.tinst)
        ∧ SavedPc s.cfg s.mxlen info.epc t.m.epc
        ∧ t.m.cause = zxTo s.mxlen (BitVec.ofNat 64 info.code) ||| flag info.isInt (s.mxlen.bits - 1)
        ∧ SavedMtval s.cfg s.mxlen info.tval t.m.tval
        ∧ t.priv = .machine ∧ t.virt = false
        ∧ t.pc = sxTo s.mxlen ((s.m.tvec &&& ~~~3#64)
            + (if info.isInt && s.m.tvec.getLsbD 0 then BitVec.ofNat 64 (4 * info.code) else 0))
        ∧ t = { s with
            mstatus := { s.mstatus with
              mpie := t.mstatus.mpie, mie := t.mstatus.mie, mpp := t.mstatus.mpp, mpv := t.mstatus.mpv
              gva := t.mstatus.gva }
            m := { s.m with
              epc := t.m.epc, cause := t.m.cause, tval := t.m.tval, tval2 := t.m.tval2, tinst := t.m.tinst }
            priv := t.priv, virt := t.virt, pc := t.pc, reservation := t.reservation })
  ∧ (∀ (s : State) (info : TrapInfo),
      let t := s.enterS info
      t.mstatus.spie = s.mstatus.sie ∧ t.mstatus.sie = false
        ∧ t.mstatus.spp = decide (s.priv = .supervisor)
        ∧ (s.hasH = true → t.h.status.spv = s.virt ∧ t.h.status.gva = info.gva
            ∧ t.h.status.spvp = (if s.virt then decide (s.priv = .supervisor) else s.h.status.spvp)
            ∧ t.h.tval = zxTo s.sxlen info.tval2 ∧ t.h.tinst = info.tinst)
        ∧ (s.hasH = false → t.h = s.h)
        ∧ SavedPc s.cfg s.sxlen info.epc t.s.epc
        ∧ t.s.cause = zxTo s.sxlen (BitVec.ofNat 64 info.code) ||| flag info.isInt (s.sxlen.bits - 1)
        ∧ HeldAs s.cfg.xtvalLegal s.sxlen info.tval t.s.tval
        ∧ t.priv = .supervisor ∧ t.virt = false
        ∧ t.pc = sxTo s.sxlen ((s.s.tvec &&& ~~~3#64)
            + (if info.isInt && s.s.tvec.getLsbD 0 then BitVec.ofNat 64 (4 * info.code) else 0))
        ∧ t = { s with
            mstatus := { s.mstatus with
              spie := t.mstatus.spie, sie := t.mstatus.sie, spp := t.mstatus.spp }
            h := { s.h with
              status := { s.h.status with
                spv := t.h.status.spv, spvp := t.h.status.spvp, gva := t.h.status.gva }
              tval := t.h.tval, tinst := t.h.tinst }
            s := { s.s with epc := t.s.epc, cause := t.s.cause, tval := t.s.tval }
            priv := t.priv, virt := t.virt, pc := t.pc, reservation := t.reservation })

/-- Trap entry into VS-mode writes the VS registers and nothing else, with VS-level interrupt codes translated;
and only exceptions 0 to 8, 12, 13 and 15 go there (R882). The vectored offset by the translated code is the spec's
derivation there, the list of exceptions that of R861. These are decisions that the model follows: codes of 16 and up stay
(D27, log 48), pc and trap value are cut to VSXLEN (D54, log 43), the reservation stays (D55, log 45). -/
def Obligations.TrapEntryVirtualSupervisor : Prop :=
  (∀ (s : State) (info : TrapInfo),
    let t := s.enterVS info
    let code := if info.isInt then
        (if info.code = 10 then 9 else if info.code = 6 then 5 else if info.code = 2 then 1 else info.code)
      else info.code
    t.vs.status.spie = s.vs.status.sie ∧ t.vs.status.sie = false
      ∧ t.vs.status.spp = decide (s.priv = .supervisor)
      ∧ SavedPc s.cfg s.vsxlen info.epc t.vs.epc
      ∧ t.vs.cause = zxTo s.vsxlen (BitVec.ofNat 64 code) ||| flag info.isInt (s.vsxlen.bits - 1)
      ∧ HeldAs s.cfg.xtvalLegal s.vsxlen info.tval t.vs.tval
      ∧ t.priv = .supervisor ∧ t.virt = true
      ∧ t.pc = sxTo s.vsxlen ((s.vs.tvec &&& ~~~3#64)
          + (if info.isInt && s.vs.tvec.getLsbD 0 then BitVec.ofNat 64 (4 * code) else 0))
      ∧ t = { s with
          vs := { s.vs with
            status := { s.vs.status with
              spie := t.vs.status.spie, sie := t.vs.status.sie, spp := t.vs.status.spp }
            epc := t.vs.epc, cause := t.vs.cause, tval := t.vs.tval }
          priv := t.priv, virt := t.virt, pc := t.pc })
  ∧ ∀ (s : State) (c : ExcCode), s.exceptionTarget c = .vs →
      s.virt = true ∧ (c.code ≤ 8 ∨ c.code = 12 ∨ c.code = 13 ∨ c.code = 15)

/-- Where a synchronous exception goes: the function the spec derives in R879. -/
def Obligations.ExceptionDestination : Prop :=
  ∀ (s : State) (c : ExcCode),
    s.exceptionTarget c =
      if s.priv = .machine ∨ s.hasS = false ∨ s.medeleg.getLsbD c.code = false then .m
      else if s.hasH = false ∨ s.virt = false ∨ s.hedeleg.getLsbD c.code = false then .s
      else .vs

/-- No trap goes to a less privileged mode, and none from outside a guest goes into one: neither an exception nor an
interrupt that is taken (R881). -/
def Obligations.NoDownwardTraps : Prop :=
  ∀ s : State,
    (∀ (w : BitVec 32) (e : Excn),
        rankOf s.priv s.virt ≤ rankOf (s.takeException w e).priv (s.takeException w e).virt
          ∧ ((s.takeException w e).virt = true → s.virt = true))
      ∧ ∀ (d : Dest) (i : Nat), s.interrupt = some (d, i) →
          rankOf s.priv s.virt ≤ rankOf (s.takeInterrupt d i).priv (s.takeInterrupt d i).virt
            ∧ ((s.takeInterrupt d i).virt = true → s.virt = true)

/-! ## Interrupts -/

/-- An interrupt goes to M-mode exactly when one satisfies the conditions of R890. -/
def Obligations.InterruptsIntoMachineMode : Prop :=
  ∀ s : State,
    (∀ i, s.interrupt = some (.m, i) → s.takesM i = true)
      ∧ ((∃ i, s.takesM i = true) → ∃ j, s.interrupt = some (.m, j))

/-- An interrupt goes to S-mode (HS-mode) exactly when one satisfies R891 and none goes to M-mode, which is first by
R893. -/
def Obligations.InterruptsIntoSupervisorMode : Prop :=
  ∀ s : State,
    (∀ i, s.interrupt = some (.s, i) → s.takesHS i = true ∧ ∀ j, s.takesM j = false)
      ∧ ((∀ j, s.takesM j = false) → (∃ i, s.takesHS i = true) → ∃ j, s.interrupt = some (.s, j))

/-- An interrupt goes to VS-mode exactly when none goes to M-mode or HS-mode and one satisfies the
condition the spec decides in R892 (D53, log 39). -/
def Obligations.InterruptsIntoVirtualSupervisorMode : Prop :=
  ∀ s : State,
    (∀ i, s.interrupt = some (.vs, i) →
        s.takesVS i = true ∧ (∀ j, s.takesM j = false) ∧ ∀ j, s.takesHS j = false)
      ∧ ((∀ j, s.takesM j = false) → (∀ j, s.takesHS j = false) → (∃ i, s.takesVS i = true) →
          ∃ j, s.interrupt = some (.vs, j))

/-- Within its destination the interrupt served is the first in the order of R893. The model follows the spec's
decisions there: for M-mode SGEI and the VS-level interrupts come after STI (D28, log 48), platform codes go highest
first (D56, log 48), before or after the standard ones as the configuration says; the order for VS-mode is R893's
derivation. That in S-mode a delegated machine-level interrupt goes before SEI is the model's choice (DESIGN CHOICE, log
48). -/
def Obligations.InterruptServiceOrder : Prop :=
  ∀ (s : State) (d : Dest) (i j : Nat), s.interrupt = some (d, i) → s.takes d j = true →
    serviceRank s.cfg.platformFirst i ≤ serviceRank s.cfg.platformFirst j

/-- The NMI (R905). The `mstatus` stack and the zeros in `mtval`, `mtval2`, `mtinst` and GVA are D57, which the model
follows (log 24); how the saved pc of a narrower mode is extended, and that it is cut to MXLEN, is log 43. -/
def Obligations.NmiEntersMachineMode : Prop :=
  ∀ s : State, s.cfg.wf = true → s.event.reset = false → s.event.nmi = true →
    ∃ t, step s = .next t ∧ t.priv = .machine ∧ t.virt = false
      ∧ t.pc = sxTo s.mxlen s.cfg.nmiVector
      ∧ SavedPc s.cfg s.mxlen s.pcAtTrap t.m.epc
      ∧ t.m.cause = zxTo s.mxlen s.cfg.nmiCause ||| flag true (s.mxlen.bits - 1)
      ∧ t.m.tval = 0
      ∧ t.mstatus.mpp = s.priv ∧ t.mstatus.mpie = s.mstatus.mie ∧ t.mstatus.mie = false
      ∧ (s.hasH = true → t.mstatus.mpv = s.virt ∧ t.mstatus.gva = false ∧ t.m.tval2 = 0 ∧ t.m.tinst = 0)
      ∧ t.stalled = false ∧ t.x = s.x ∧ t.mem = s.mem ∧ t.s = s.s ∧ t.h = s.h ∧ t.vs = s.vs

/-! ## Reset -/

/-- What reset leaves, in any configuration: at power-on, and in a running hart whose next event is a reset (R960). The
PMP entries for which the platform mandates other values are a parameter (log 3). That the reset of a running hart keeps
memory and the devices is the model's (D61, log 37). -/
def Obligations.ResetState : Prop :=
  (∀ c : Config, (State.resetOf c).AfterReset ∧ (State.resetOf c).cfg = c)
  ∧ ∀ s : State, s.cfg.wf = true → s.event.reset = true →
      ∃ t, step s = .next t ∧ t.AfterReset ∧ t.cfg = s.cfg ∧ t.stalled = false
        ∧ t.mem = s.mem ∧ t.mtimecmp = s.mtimecmp

/-! ## Integer computation -/

/-- The register-register instructions at either width (R1004). -/
def Obligations.RegisterComputation : Prop :=
  ∀ (s : State) (rd rs1 rs2 : RegIdx),
    let a := s.readX rs1
    let b := s.readX rs2
    let xl := s.xlen
    let next := s.pc + 4
    let sh := b.toNat % xl.bits
    Completes (.add rd rs1 rs2) s rd (a + b) next
      ∧ Completes (.sub rd rs1 rs2) s rd (a - b) next
      ∧ Completes (.xor rd rs1 rs2) s rd (a ^^^ b) next
      ∧ Completes (.or rd rs1 rs2) s rd (a ||| b) next
      ∧ Completes (.and rd rs1 rs2) s rd (a &&& b) next
      ∧ Completes (.slt rd rs1 rs2) s rd (if intOf xl a < intOf xl b then 1 else 0) next
      ∧ Completes (.sltu rd rs1 rs2) s rd (if natOf xl a < natOf xl b then 1 else 0) next
      ∧ Completes (.sll rd rs1 rs2) s rd (BitVec.ofNat 64 (natOf xl a * 2 ^ sh)) next
      ∧ Completes (.srl rd rs1 rs2) s rd (BitVec.ofNat 64 (natOf xl a / 2 ^ sh)) next
      ∧ Completes (.sra rd rs1 rs2) s rd (BitVec.ofInt 64 (intOf xl a / 2 ^ sh)) next

/-- The register-immediate instructions at either width, and LUI and AUIPC (R1002, R1004). -/
def Obligations.ImmediateComputation : Prop :=
  (∀ (s : State) (rd rs1 : RegIdx) (imm : BitVec 12),
      let a := s.readX rs1
      let k : Word := imm.signExtend 64
      let xl := s.xlen
      let next := s.pc + 4
      Completes (.addi rd rs1 imm) s rd (a + k) next
        ∧ Completes (.xori rd rs1 imm) s rd (a ^^^ k) next
        ∧ Completes (.ori rd rs1 imm) s rd (a ||| k) next
        ∧ Completes (.andi rd rs1 imm) s rd (a &&& k) next
        ∧ Completes (.slti rd rs1 imm) s rd (if intOf xl a < imm.toInt then 1 else 0) next
        ∧ Completes (.sltiu rd rs1 imm) s rd (if natOf xl a < natOf xl k then 1 else 0) next)
  ∧ (∀ (s : State) (rd : RegIdx) (imm : BitVec 20),
      let upper : Word := BitVec.ofInt 64 (imm.toInt * 4096)
      Completes (.lui rd imm) s rd upper (s.pc + 4) ∧ Completes (.auipc rd imm) s rd (s.pc + upper) (s.pc + 4))

/-- The shifts by an immediate, where the shift amount exists; on RV32 one of 32 or more is an illegal
instruction (R1004). -/
def Obligations.ShiftImmediate : Prop :=
  ∀ (s : State) (rd rs1 : RegIdx) (shamt : BitVec 6),
    let a := s.readX rs1
    let xl := s.xlen
    let next := s.pc + 4
    let n := shamt.toNat
    (n < xl.bits →
      Completes (.slli rd rs1 shamt) s rd (BitVec.ofNat 64 (natOf xl a * 2 ^ n)) next
        ∧ Completes (.srli rd rs1 shamt) s rd (BitVec.ofNat 64 (natOf xl a / 2 ^ n)) next
        ∧ Completes (.srai rd rs1 shamt) s rd (BitVec.ofInt 64 (intOf xl a / 2 ^ n)) next)
    ∧ (xl.bits ≤ n →
      ∀ i ∈ [Instr.slli rd rs1 shamt, .srli rd rs1 shamt, .srai rd rs1 shamt],
        exec i s = .next (s.takeIllegal (encode i)))

/-- The 32-bit instructions of RV64 (R1004). -/
def Obligations.WordComputation : Prop :=
  ∀ (s : State) (rd rs1 rs2 : RegIdx) (imm : BitVec 12), s.xlen = .x64 →
    let a := s.readX rs1
    let b := s.readX rs2
    let next := s.pc + 4
    let narrow (v : Word) : Word := (v.setWidth 32).signExtend 64
    Completes (.addiw rd rs1 imm) s rd (narrow (a + imm.signExtend 64)) next
      ∧ Completes (.addw rd rs1 rs2) s rd (narrow (a + b)) next
      ∧ Completes (.subw rd rs1 rs2) s rd (narrow (a - b)) next

/-- An instruction that exists on RV64 only is illegal while XLEN is 32 (R1003, R1004). -/
def Obligations.WideInstructionsIllegalOnRv32 : Prop :=
  ∀ (s : State) (rd rs1 rs2 : RegIdx) (imm : BitVec 12), s.xlen = .x32 →
    ∀ i ∈ [Instr.addiw rd rs1 imm, .addw rd rs1 rs2, .subw rd rs1 rs2, .ld rd rs1 imm, .lwu rd rs1 imm,
        .sd rs1 rs2 imm],
      exec i s = .next (s.takeIllegal (encode i))

/-! ## Control transfer -/

/-- JAL and JALR (R1002, R872): an aligned target is reached with the link written; a misaligned one is an
exception of the jump itself, with no register written. -/
def Obligations.JumpAndLink : Prop :=
  ∀ (s : State) (rd rs1 : RegIdx) (off : BitVec 21) (imm : BitVec 12),
    ∀ jump ∈ [(Instr.jal rd off, s.pc + off.signExtend 64),
        (Instr.jalr rd rs1 imm, (s.readX rs1 + imm.signExtend 64) &&& ~~~1#64)],
      (jump.2.toNat % s.ialign = 0 → Completes jump.1 s rd (s.pc + 4) jump.2)
        ∧ (jump.2.toNat % s.ialign ≠ 0 →
            ∃ t, exec jump.1 s = .next t ∧ t.x = s.x ∧ s.SameOutsideTrap t
              ∧ ∃ e : Excn, e.code = .instrMisaligned ∧ e.tval = zxTo s.xlen jump.2
                ∧ t = s.takeException (encode jump.1) e)

/-- The branches (R1002, R872): the condition decides between the target and the next instruction; a taken branch
to a misaligned target is an exception of the branch itself. -/
def Obligations.Branches : Prop :=
  ∀ (s : State) (rs1 rs2 : RegIdx) (off : BitVec 13),
    let a := s.readX rs1
    let b := s.readX rs2
    let xl := s.xlen
    let target := s.pc + off.signExtend 64
    ∀ br ∈ [(Instr.beq rs1 rs2 off, decide (natOf xl a = natOf xl b)),
        (Instr.bne rs1 rs2 off, decide (natOf xl a ≠ natOf xl b)),
        (Instr.blt rs1 rs2 off, decide (intOf xl a < intOf xl b)),
        (Instr.bge rs1 rs2 off, decide (intOf xl b ≤ intOf xl a)),
        (Instr.bltu rs1 rs2 off, decide (natOf xl a < natOf xl b)),
        (Instr.bgeu rs1 rs2 off, decide (natOf xl b ≤ natOf xl a))],
      (br.2 = false → Completes br.1 s 0 0 (s.pc + 4))
        ∧ (br.2 = true → target.toNat % s.ialign = 0 → Completes br.1 s 0 0 target)
        ∧ (br.2 = true → target.toNat % s.ialign ≠ 0 →
            ∃ e : Excn, e.code = .instrMisaligned ∧ e.tval = zxTo xl target
              ∧ exec br.1 s = .next (s.takeException (encode br.1) e))

/-! ## Loads and stores -/

/-- A load whose address resolves reads the bytes there, in the byte order of the mode, into `rd`; nothing else
changes but what translation may leave (R500, R1003). The effective address is `x[rs1] + sext(imm)` at XLEN. -/
def Obligations.LoadsComplete : Prop :=
  ∀ row ∈ plainLoads, ∀ (s t : State) (rd rs1 : RegIdx) (imm : BitVec 12) (pas : List Nat),
    (row.2.2.2 = true → s.xlen = .x64) →
    s.resolve { kind := .load, n := row.2.1 } (zxTo s.xlen (s.readX rs1 + imm.signExtend 64)) = .ok pas t →
    pas.length = row.2.1 ∧ s.TranslatedTo t
      ∧ EndsWith (row.1 rd rs1 imm) s t rd
          (loadedValue (s.bigEndian { kind := .load, n := row.2.1 }) row.2.2.1 (pas.map t.readPhys))
          (s.pc + 4)

/-- A store whose address resolves (R500, R1003). -/
def Obligations.StoresComplete : Prop :=
  ∀ row ∈ plainStores, ∀ (s t : State) (rs1 rs2 : RegIdx) (imm : BitVec 12) (pas : List Nat),
    Memory.wf s.mem = true → (row.2.2 = true → s.xlen = .x64) →
    s.resolve { kind := .store, n := row.2.1 } (zxTo s.xlen (s.readX rs1 + imm.signExtend 64)) = .ok pas t →
    s.TranslatedTo t
      ∧ Stored (row.1 rs1 rs2 imm) s t (s.bigEndian { kind := .store, n := row.2.1 }) row.2.1 (s.readX rs2) pas
          (s.pc + 4)

/-- A load or store whose access raises an exception takes it; a load then writes no register (R1003). -/
def Obligations.LoadStoreFaults : Prop :=
  (∀ row ∈ plainLoads, ∀ (s t : State) (rd rs1 : RegIdx) (imm : BitVec 12) (e : Excn),
      (row.2.2.2 = true → s.xlen = .x64) →
      s.resolve { kind := .load, n := row.2.1 } (zxTo s.xlen (s.readX rs1 + imm.signExtend 64)) = .exn e t →
      exec (row.1 rd rs1 imm) s = .next (t.takeException (encode (row.1 rd rs1 imm)) e)
        ∧ (t.takeException (encode (row.1 rd rs1 imm)) e).x = s.x)
  ∧ (∀ row ∈ plainStores, ∀ (s t : State) (rs1 rs2 : RegIdx) (imm : BitVec 12) (e : Excn),
      (row.2.2 = true → s.xlen = .x64) →
      s.resolve { kind := .store, n := row.2.1 } (zxTo s.xlen (s.readX rs1 + imm.signExtend 64)) = .exn e t →
      exec (row.1 rs1 rs2 imm) s = .next (t.takeException (encode (row.1 rs1 rs2 imm)) e))

/-- Where an untranslated access lands: an aligned access of effective mode M goes to its address, where PMP and
PMA allow it (R500, R550). -/
def Obligations.MachineAccessIsUntranslated : Prop :=
  ∀ (s : State) (a : Acc) (va : Word), a.kind ≠ .fetch → a.hlv = false → s.priv = .machine →
    s.mstatus.mprv = false →
    let pa := (zxTo s.mxlen va).toNat
    pa % a.n = 0 →
    (s.physAllowed a .machine { pa := pa, gPbmt := 0, sPbmt := 0 } a.n a.n = true →
      s.resolve a va = .ok (addrsFrom pa a.n) s)
    ∧ (s.physAllowed a .machine { pa := pa, gPbmt := 0, sPbmt := 0 } a.n a.n = false →
      ∃ e : Excn, e.code = (if a.kind = .store then .storeAccess else .loadAccess) ∧ e.tval = zxTo s.mxlen va
        ∧ s.resolve a va = .exn e s)

/-- In M-mode a doubleword stored to plain memory is the doubleword loaded back, in either byte order. That a read gives
the last write, in I/O regions too, is D34 (log 42), that accesses take effect in program order D37 (log 20): decisions
which the model follows. -/
def Obligations.StoreThenLoad : Prop :=
  ∀ (s : State) (rs1 rs2 rd : RegIdx) (imm : BitVec 12),
    Memory.wf s.mem = true → s.priv = .machine → s.mxlen = .x64 → s.mstatus.mprv = false →
    let pa := (s.readX rs1 + imm.signExtend 64).toNat
    pa % 8 = 0 → (∀ k, k < 8 → s.plainAddr (pa + k) = true) →
    s.physAllowed { kind := .store, n := 8 } .machine { pa := pa, gPbmt := 0, sPbmt := 0 } 8 8 = true →
    s.physAllowed { kind := .load, n := 8 } .machine { pa := pa, gPbmt := 0, sPbmt := 0 } 8 8 = true →
    ∃ t u, exec (.sd rs1 rs2 imm) s = .next t ∧ exec (.ld rd rs1 imm) t = .next u
      ∧ (rd ≠ 0 → u.readX rd = s.readX rs2)

/-! ## Virtual-machine loads and stores -/

/-- HLV and HLVX (R820, R826 to R835). -/
def Obligations.GuestLoadsComplete : Prop :=
  ∀ row ∈ guestLoads, ∀ (s t : State) (rd rs1 : RegIdx) (pas : List Nat),
    GuestAccessPermitted s row.2.2.2.1 →
    let a : Acc := { kind := .load, n := row.2.1, hlv := true, hlvx := row.2.2.2.2 }
    s.resolve a (zxTo s.xlen (s.readX rs1)) = .ok pas t →
    pas.length = row.2.1 ∧ s.TranslatedTo t
      ∧ EndsWith (row.1 rd rs1) s t rd (loadedValue (s.bigEndian a) row.2.2.1 (pas.map t.readPhys)) (s.pc + 4)

/-- HSV (R820, R836 to R839). -/
def Obligations.GuestStoresComplete : Prop :=
  ∀ row ∈ guestStores, ∀ (s t : State) (rs1 rs2 : RegIdx) (pas : List Nat),
    Memory.wf s.mem = true → GuestAccessPermitted s row.2.2 →
    let a : Acc := { kind := .store, n := row.2.1, hlv := true }
    s.resolve a (zxTo s.xlen (s.readX rs1)) = .ok pas t →
    s.TranslatedTo t ∧ Stored (row.1 rs1 rs2) s t (s.bigEndian a) row.2.1 (s.readX rs2) pas (s.pc + 4)

/-- Where HLV, HLVX and HSV do not execute (R821): illegal without the hypervisor extension, for an RV64-only form
at XLEN = 32 and in U-mode with HU = 0; a virtual instruction exception when V = 1. Memory is not touched. That the XLEN
of the executing mode decides on the RV64-only forms is R822's decision D52, which the model follows (log 47). -/
def Obligations.GuestAccessPermission : Prop :=
  ∀ (s : State) (rd rs1 rs2 : RegIdx),
    ∀ row ∈ (guestLoads.map fun r => (r.1 rd rs1, r.2.2.2.1)) ++ (guestStores.map fun r => (r.1 rs1 rs2, r.2.2)),
      (s.hasH = false → exec row.1 s = .next (s.takeIllegal (encode row.1)))
      ∧ (s.hasH = true → row.2 = true → s.xlen = .x32 → exec row.1 s = .next (s.takeIllegal (encode row.1)))
      ∧ (s.hasH = true → (row.2 = true → s.xlen = .x64) → s.virt = true →
          exec row.1 s = .next (s.takeVirtual (encode row.1)))
      ∧ (s.hasH = true → s.virt = false → s.priv = .user → s.h.status.hu = false →
          exec row.1 s = .next (s.takeIllegal (encode row.1)))

/-! ## Translation and protection -/

/-- A non-canonical virtual address is a page fault of the access, in each scheme of `satp` (R553). -/
def Obligations.NonCanonicalAddressFaults : Prop :=
  ∀ (s : State) (a : Acc) (va : Word) (sc : Scheme) (p : Priv),
    s.effMode a = (p, false) → p ≠ .machine → s.xlenOf p false = .x64 → va.toNat % a.n = 0 →
    s.hsScheme = some sc → sc.pteSize = 8 →
    (¬ ∃ low : Int, -(2 ^ (sc.vaBits - 1)) ≤ low ∧ low < 2 ^ (sc.vaBits - 1) ∧ va = BitVec.ofInt 64 low) →
    ∃ e : Excn, e.code = (match a.kind with
        | .fetch => .instrPage
        | .load => .loadPage
        | .store => .storePage)
      ∧ e.tval = va ∧ s.resolve a va = .exn e s

/-- Which bytes a PMP entry matches, by its A field and the address registers as they read: none for OFF, a range from the
preceding register for TOR, four bytes for NA4, a naturally aligned power of two for NAPOT (R473 to R475), with the bits
below the grain read as R476 has it. The lowest-numbered entry that matches any byte of an access decides it: it must match
all bytes, and its permissions bind S and U, and M when it is locked (R478). Without a matching entry M succeeds, and S and
U succeed only if no entry is implemented, as the pseudocode of R478 ends (that this last is so is the spec's derivation in
R479). -/
def Obligations.PmpLowestMatchDecides : Prop :=
  (∀ (s : State) (i y : Nat),
    let g := s.cfg.pmpG
    let a := pmpA (s.pmpCfg i)
    let reads (j : Nat) : Nat := (s.csrRead (.pmpaddr j)).toNat
    let bound (j : Nat) : Nat := reads j / 2 ^ g * 2 ^ g
    (a = 0 → s.pmpMatches i y = false)
    ∧ (a = 1 → (s.pmpMatches i y = true ↔ (0 < i → bound (i - 1) ≤ y / 4) ∧ y / 4 < bound i))
    ∧ (a = 2 → (s.pmpMatches i y = true ↔ y / 4 = reads i))
    ∧ (a = 3 → ∀ t, reads i % 2 ^ (t + 1) = 2 ^ t - 1 →
        (s.pmpMatches i y = true ↔ y / 2 ^ (t + 3) = reads i / 2 ^ (t + 1)))
    ∧ ∀ k, (s.csrRead (.pmpaddr i)).getLsbD k =
        if 2 ≤ a then
          (s.pmpAddrRaw i).getLsbD k || (decide (k + 1 < g) && decide (k < if s.mxlen = .x32 then 32 else 54))
        else (s.pmpAddrRaw i).getLsbD k && decide (g ≤ k))
  ∧ ∀ (s : State) (pa n : Nat) (need : Need) (mode : Priv), 0 < n →
    ((∀ i, i < s.cfg.pmpCount → ∀ k, k < n → s.pmpMatches i (pa + k) = false) →
        s.pmpCheck pa n need mode = (decide (mode = .machine) || s.cfg.pmpCount == 0))
    ∧ ∀ i, i < s.cfg.pmpCount → (∃ k, k < n ∧ s.pmpMatches i (pa + k) = true) →
        (∀ j, j < i → ∀ k, k < n → s.pmpMatches j (pa + k) = false) →
        (s.pmpCheck pa n need mode = true ↔
          (∀ k, k < n → s.pmpMatches i (pa + k) = true)
            ∧ ((mode = .machine ∧ pmpLocked (s.pmpCfg i) = false)
              ∨ ((need.r = true → (s.pmpCfg i).getLsbD 0 = true)
                ∧ (need.w = true → (s.pmpCfg i).getLsbD 1 = true)
                ∧ (need.x = true → (s.pmpCfg i).getLsbD 2 = true))))

/-! ## System instructions -/

/-- ECALL raises the environment call of its mode, EBREAK a breakpoint; neither retires or writes a register. The trap
saves the instruction's own pc (R864, R752) and its cause; the trap value of ECALL is 0, that of EBREAK its address, or 0
where the platform so chooses (R862). How the pc of a narrower mode is extended, and pc and value are cut to the receiving
width, is log 43 (D54) (R750 to R752). -/
def Obligations.EcallEbreakTrap : Prop :=
  ∀ s : State,
    (∃ (t : State) (e : Excn), exec .ecall s = .next t ∧ t = s.takeException 0x00000073#32 e ∧ e.tval = 0
      ∧ e.code.code = (match s.priv, s.virt with
          | .user, _ => 8
          | .supervisor, false => 9
          | .supervisor, true => 10
          | .machine, _ => 11)
      ∧ s.TrapSaved t s.pcAtTrap 0 e.code.code
      ∧ t.x = s.x ∧ t.m.instret = s.m.instret)
    ∧ (∃ (t : State) (e : Excn), exec .ebreak s = .next t ∧ t = s.takeException 0x00100073#32 e
      ∧ e.code.code = 3 ∧ e.tval = zxTo s.xlen s.pc
      ∧ s.TrapSaved t s.pcAtTrap (if s.cfg.xtvalZero.getLsbD 3 then 0 else zxTo s.xlen s.pc) 3
      ∧ t.x = s.x ∧ t.m.instret = s.m.instret)

/-- MRET in M-mode (R754); in any other mode it is an illegal instruction. The reservation may be kept or
cleared. -/
def Obligations.MretReturns : Prop :=
  ∀ s : State,
    (s.priv = .machine → ∃ t, exec .mret s = .next t
      ∧ t.priv = s.mstatus.mpp
      ∧ t.virt = (if s.hasH && s.mstatus.mpp != .machine then s.mstatus.mpv else false)
      ∧ t.mstatus = { s.mstatus with
          mie := s.mstatus.mpie, mpie := true, mpp := if s.hasU then .user else .machine
          mpv := if s.hasH then false else s.mstatus.mpv
          mprv := if s.mstatus.mpp = .machine then s.mstatus.mprv else false }
      ∧ t.pc = sxTo t.xlen (if s.hasC then s.m.epc &&& ~~~1#64 else s.m.epc &&& ~~~3#64)
      ∧ (t.reservation = s.reservation ∨ t.reservation = none)
      ∧ t = { s with
          priv := t.priv, virt := t.virt, mstatus := t.mstatus, pc := t.pc, reservation := t.reservation
          draws := s.draws + 1, m := { s.m with instret := s.nextInstret } })
    ∧ (s.priv ≠ .machine → exec .mret s = .next (s.takeIllegal 0x30200073#32))
    ∧ encode .mret = 0x30200073#32

/-- SRET with V = 0, in M-mode or in S-mode with TSR = 0; with V = 1, in VS-mode with VTSR = 0, where only `vsstatus`
changes beside the mode and V stays 1; and where it does not execute (R780). The reservation may be kept or cleared. -/
def Obligations.SretReturns : Prop :=
  (∀ s : State, s.hasS = true → s.virt = false →
      (s.priv = .machine ∨ (s.priv = .supervisor ∧ s.mstatus.tsr = false)) →
      ∃ t, exec .sret s = .next t
        ∧ t.priv = (if s.mstatus.spp then .supervisor else .user)
        ∧ t.virt = (if s.hasH then s.h.status.spv else false)
        ∧ t.mstatus = { s.mstatus with sie := s.mstatus.spie, spie := true, spp := false, mprv := false }
        ∧ t.h = (if s.hasH then { s.h with status := { s.h.status with spv := false } } else s.h)
        ∧ t.pc = sxTo t.xlen (if s.hasC then s.s.epc &&& ~~~1#64 else s.s.epc &&& ~~~3#64)
        ∧ (t.reservation = s.reservation ∨ t.reservation = none)
        ∧ t = { s with
            priv := t.priv, virt := t.virt, mstatus := t.mstatus, h := t.h, pc := t.pc
            reservation := t.reservation, draws := s.draws + 1, m := { s.m with instret := s.nextInstret } })
  ∧ (∀ s : State, s.hasS = true → s.virt = true → s.priv = .supervisor → s.h.status.vtsr = false →
      ∃ t, exec .sret s = .next t
        ∧ t.priv = (if s.vs.status.spp then .supervisor else .user) ∧ t.virt = true
        ∧ t.vs.status = { s.vs.status with sie := s.vs.status.spie, spie := true, spp := false }
        ∧ t.pc = sxTo t.xlen (if s.hasC then s.vs.epc &&& ~~~1#64 else s.vs.epc &&& ~~~3#64)
        ∧ (t.reservation = s.reservation ∨ t.reservation = none)
        ∧ t = { s with
            priv := t.priv, vs := { s.vs with status := t.vs.status }, pc := t.pc, reservation := t.reservation
            draws := s.draws + 1, m := { s.m with instret := s.nextInstret } })
  ∧ (∀ s : State,
      ((s.hasS = false ∨ (s.virt = false ∧ (s.priv = .user ∨ (s.priv = .supervisor ∧ s.mstatus.tsr = true)))) →
          exec .sret s = .next (s.takeIllegal 0x10200073#32))
      ∧ (s.hasS = true → s.virt = true → (s.priv = .user ∨ (s.priv = .supervisor ∧ s.h.status.vtsr = true)) →
          exec .sret s = .next (s.takeVirtual 0x10200073#32)))
  ∧ encode .sret = 0x10200073#32

/-- WFI where it may execute goes on at `pc + 4`; the hart may stall only if no enabled interrupt is pending; and where
it may not, with a time limit of zero (D49, log 9), it traps (R755 to R757). -/
def Obligations.WfiCompletes : Prop :=
  (∀ s : State,
      (s.priv = .machine ∨ (s.priv = .supervisor ∧ s.virt = false ∧ s.mstatus.tw = false)
        ∨ (s.priv = .user ∧ s.virt = false ∧ s.hasS = false ∧ s.mstatus.tw = false)
        ∨ (s.priv = .supervisor ∧ s.virt = true ∧ s.mstatus.tw = false ∧ s.h.status.vtw = false)) →
      ∃ t, exec .wfi s = .next t ∧ (t.stalled = true → s.mip &&& s.mie = 0)
        ∧ t = { s with
            pc := sxTo s.xlen (s.pc + 4), m := { s.m with instret := s.nextInstret }, stalled := t.stalled
            draws := s.draws + 1 })
  ∧ (∀ s : State, s.cfg.twLimit = 0 →
      ((s.priv ≠ .machine ∧ s.mstatus.tw = true) ∨ (s.priv = .user ∧ s.virt = false ∧ s.hasS = true) →
          exec .wfi s = .next (s.takeIllegal 0x10500073#32))
      ∧ (s.virt = true → s.mstatus.tw = false →
          (s.priv = .user ∨ (s.priv = .supervisor ∧ s.h.status.vtw = true)) →
          exec .wfi s = .next (s.takeVirtual 0x10500073#32)))

/-! ## Fences -/

/-- SFENCE.VMA, and SINVAL.VMA, which does the same where Svinval is present. With V = 0 the HS-level entries
selected go, with V = 1 the selected VS-stage entries of the current VMID. An address that is not valid under the
translation register in force selects none; `x0` by its specifier means all (R571, R656, R785, R801). Decisions that the
model follows: SINVAL.VMA acts at once (D50, log 47), exactly the selected entries go (D44, log 11), the address is cut to
the width of the addresses fenced (log 43). With an address only entries that end a walk go (R571), an invalid or reserved
entry among them by the model's choice (DESIGN CHOICE, log 51). -/
def Obligations.SfenceVmaFences : Prop :=
  (∀ (s : State) (rs1 rs2 : RegIdx),
      s.hasS = true → (s.cfg.sfenceBareIllegal = false ∨ pagedAt s.cfg s.sxlen = true) →
      s.virt = false → (s.priv = .machine ∨ (s.priv = .supervisor ∧ s.mstatus.tvm = false)) →
      let addr := if rs1 = 0 then none else some (zxTo s.sxlen (s.src rs1))
      let asidLen := match s.sxlen with
        | .x32 => min s.cfg.asidLen 9
        | .x64 => min s.cfg.asidLen 16
      let space := if rs2 = 0 then none else some ((s.src rs2).toNat % 2 ^ asidLen)
      ∀ i ∈ [Instr.sfenceVma rs1 rs2, .sinvalVma rs1 rs2],
        (i = .sinvalVma rs1 rs2 → s.cfg.svinval = true) →
        ∃ t, exec i s = .next t
          ∧ s.FencedTo t
              (fun e => e.kind = .hs ∧ validAddr s.sxlen s.s.atp addr = true ∧ FenceSelects e addr space)
              (decide (rs1 = 0 ∧ rs2 = 0)) false)
  ∧ (∀ (s : State) (rs1 rs2 : RegIdx),
      s.hasS = true → (s.cfg.sfenceBareIllegal = false ∨ pagedAt s.cfg s.sxlen = true) →
      s.virt = true → s.priv = .supervisor → s.h.status.vtvm = false →
      let addr := if rs1 = 0 then none else some (zxTo s.vsxlen (s.src rs1))
      let asidLen := match s.vsxlen with
        | .x32 => min s.cfg.asidLen 9
        | .x64 => min s.cfg.asidLen 16
      let space := if rs2 = 0 then none else some ((s.src rs2).toNat % 2 ^ asidLen)
      ∀ i ∈ [Instr.sfenceVma rs1 rs2, .sinvalVma rs1 rs2],
        (i = .sinvalVma rs1 rs2 → s.cfg.svinval = true) →
        ∃ t, exec i s = .next t
          ∧ s.FencedTo t
              (fun e =>
                e.kind = .vs ∧ e.vmid = s.vmid ∧ validAddr s.vsxlen s.vs.atp addr = true
                  ∧ FenceSelects e addr space)
              false false)

/-- HFENCE.VVMA and HINVAL.VVMA, in M-mode or HS-mode whatever TVM is (R657, R804, R840); that an invalid guest
address has no effect is the spec's own derivation (log 29). Decisions that the model follows: HINVAL.VVMA acts at once
(D50, log 47), exactly the selected entries go (D44, log 11), the address is cut to VSXLEN (log 43). With an address only
entries that end a walk go (R571), an invalid or reserved entry among them by the model's choice (DESIGN CHOICE, log 51). -/
def Obligations.HfenceVvmaFences : Prop :=
  ∀ (s : State) (rs1 rs2 : RegIdx), s.hasH = true → s.virt = false → s.priv ≠ .user →
    let addr := if rs1 = 0 then none else some (zxTo s.vsxlen (s.src rs1))
    let asidLen := match s.vsxlen with
      | .x32 => min s.cfg.asidLen 9
      | .x64 => min s.cfg.asidLen 16
    let space := if rs2 = 0 then none else some ((s.src rs2).toNat % 2 ^ asidLen)
    ∀ i ∈ [Instr.hfenceVvma rs1 rs2, .hinvalVvma rs1 rs2],
      (i = .hinvalVvma rs1 rs2 → s.cfg.svinval = true) →
      ∃ t, exec i s = .next t
        ∧ s.FencedTo t
            (fun e =>
              e.kind = .vs ∧ e.vmid = s.vmid ∧ validAddr s.vsxlen s.vs.atp addr = true
                ∧ FenceSelects e addr space)
            false false

/-- HFENCE.GVMA and HINVAL.GVMA, in M-mode or in HS-mode with TVM = 0: the G-stage entries of the guest physical
page `x[rs1] << 2` and of the VMID (R658, R805, R841). Decisions that the model follows: HINVAL.GVMA acts at once (D50,
log 47), exactly the selected entries go (D44, log 11). That with an address only entries that end a walk go, invalid and
reserved ones among them, and pointer entries stay is the model's choice (DESIGN CHOICE, log 51). -/
def Obligations.HfenceGvmaFences : Prop :=
  ∀ (s : State) (rs1 rs2 : RegIdx), s.hasH = true → s.virt = false →
    (s.priv = .machine ∨ (s.priv = .supervisor ∧ s.mstatus.tvm = false)) →
    let vmidLen := match s.sxlen with
      | .x32 => min s.cfg.vmidLen 7
      | .x64 => min s.cfg.vmidLen 14
    ∀ i ∈ [Instr.hfenceGvma rs1 rs2, .hinvalGvma rs1 rs2],
      (i = .hinvalGvma rs1 rs2 → s.cfg.svinval = true) →
      ∃ t, exec i s = .next t
        ∧ s.FencedTo t
            (fun e =>
              e.kind = .g ∧ (rs1 ≠ 0 → e.covers (4 * natOf s.xlen (s.readX rs1)) = true)
                ∧ (rs2 ≠ 0 → e.vmid = (s.src rs2).toNat % 2 ^ vmidLen))
            false (decide (rs1 = 0 ∧ rs2 = 0))

/-- The fences that only order: SFENCE.W.INVAL and SFENCE.INVAL.IR where permitted, FENCE and FENCE.I everywhere.
They go on at `pc + 4` and change nothing else (R802, R803, R807, R1005). Decisions that the model follows: the Svinval
fences have nothing left to do (D50) and run in every mode but U and VU (D51, log 47); FENCE and FENCE.I change nothing on
one hart in program order (D37, log 20; D62, log 21). -/
def Obligations.OrderingFences : Prop :=
  ∀ (s : State) (fm pred succ : BitVec 4) (imm : BitVec 12) (rs1 rd : RegIdx),
    (s.cfg.svinval = true → s.priv ≠ .user →
      Completes .sfenceWInval s 0 0 (s.pc + 4) ∧ Completes .sfenceInvalIr s 0 0 (s.pc + 4))
    ∧ Completes (.fence fm pred succ rs1 rd) s 0 0 (s.pc + 4)
    ∧ Completes (.fenceI imm rs1 rd) s 0 0 (s.pc + 4)

/-- Where the supervisor and hypervisor fences do not execute: without their extension (R688, R800; SFENCE_BARE_ILLEGAL of
R785) and in the modes that may not run them (R785, R801, R804, R805, R840, R841). That SFENCE.W.INVAL and SFENCE.INVAL.IR
trap in U-mode and VU-mode is D51 (R807), which the model follows (log 47). -/
def Obligations.FencePermission : Prop :=
  ∀ (s : State) (rs1 rs2 : RegIdx),
    (∀ i ∈ [Instr.sinvalVma rs1 rs2, .hinvalVvma rs1 rs2, .hinvalGvma rs1 rs2, .sfenceWInval, .sfenceInvalIr],
      s.cfg.svinval = false → exec i s = .next (s.takeIllegal (encode i)))
    ∧ (∀ i ∈ [Instr.sfenceVma rs1 rs2, .sinvalVma rs1 rs2],
      (s.hasS = false ∨ (s.cfg.sfenceBareIllegal = true ∧ pagedAt s.cfg s.sxlen = false) →
          exec i s = .next (s.takeIllegal (encode i)))
      ∧ (s.virt = false → (s.priv = .user ∨ (s.priv = .supervisor ∧ s.mstatus.tvm = true)) →
          exec i s = .next (s.takeIllegal (encode i)))
      ∧ (s.hasS = true → (s.cfg.sfenceBareIllegal = false ∨ pagedAt s.cfg s.sxlen = true) →
          (i = .sinvalVma rs1 rs2 → s.cfg.svinval = true) →
          s.virt = true → (s.priv = .user ∨ (s.priv = .supervisor ∧ s.h.status.vtvm = true)) →
          exec i s = .next (s.takeVirtual (encode i))))
    ∧ (∀ i ∈ [Instr.hfenceVvma rs1 rs2, .hinvalVvma rs1 rs2, .hfenceGvma rs1 rs2, .hinvalGvma rs1 rs2],
      (s.hasH = false ∨ (s.virt = false ∧ s.priv = .user) → exec i s = .next (s.takeIllegal (encode i)))
      ∧ (s.hasH = true → (i = .hinvalVvma rs1 rs2 ∨ i = .hinvalGvma rs1 rs2 → s.cfg.svinval = true) →
          s.virt = true → exec i s = .next (s.takeVirtual (encode i))))
    ∧ (∀ i ∈ [Instr.hfenceGvma rs1 rs2, .hinvalGvma rs1 rs2],
      s.virt = false → s.priv = .supervisor → s.mstatus.tvm = true → exec i s = .next (s.takeIllegal (encode i)))
    ∧ (∀ i ∈ [Instr.sfenceWInval, .sfenceInvalIr],
      s.cfg.svinval = true → s.priv = .user →
        exec i s = .next (if s.virt then s.takeVirtual (encode i) else s.takeIllegal (encode i)))

/-! ## CSR instructions -/

/-- A permitted CSR instruction reads the register into `rd` and goes on at `pc + 4`. If it does not write,
nothing else changes. If it writes, the register takes the value computed from the value held before, after the
instruction has otherwise completed; only CSRs change with it, and by a write of `misa` the registers `x16` and up and the
reservation. A write that a WLRL field refuses is an illegal instruction instead (R47, R720 to R722, R729 to R735). An instruction
that writes `minstret` is not counted there: the spec's own derivation in R160; that `minstreth` is treated alike is the
model's (DEDUCED, log 8). Which fields may refuse, and which codes are supported beyond the standard ones, is log 13. -/
def Obligations.CsrInstructionsComplete : Prop :=
  ∀ (s : State) (rd rs1 : RegIdx) (a : BitVec 12) (named : CsrReg), csrOf a = some named →
    ∀ form ∈ csrForms s rd a rs1, s.csrCheck a form.2.1 = .ok →
      let r := s.effectiveCsr named
      let new := zxTo s.xlen (form.2.2 (s.csrStored r))
      (form.2.1 = false → Completes form.1 s rd (s.csrRead r) (s.pc + 4))
      ∧ (form.2.1 = true → s.RefusesWlrl r new → exec form.1 s = .next (s.takeIllegal (encode form.1)))
      ∧ (form.2.1 = true → ¬ s.RefusesWlrl r new →
          ∃ done t, exec form.1 s = .next t
            ∧ s.Wrote done rd (s.csrRead r)
            ∧ (r = .minstret ∨ r = .minstreth → done = { s with x := done.x, pc := sxTo s.xlen (s.pc + 4) })
            ∧ (r ≠ .minstret → r ≠ .minstreth → s.Done done (s.pc + 4))
            ∧ done.csrWrite r new = some t
            ∧ (r ≠ .misa → t.x = done.x ∧ t.reservation = done.reservation) ∧ (∀ k : RegIdx, k.toNat < 16 → t.readX k = done.readX k)
            ∧ t.pc = done.pc ∧ s.SameOutsideCsrs t)

/-- Accesses that the check refuses with V = 0 (R41, R727, R728): a register that does not exist, one above the mode's
privilege, a write of a read-only one, `satp` and `hgatp` from S-mode with TVM = 1, a counter that `mcounteren` or, from
U-mode, `scounteren` does not enable. Nothing but the trap happens. -/
def Obligations.CsrAccessRefused : Prop :=
  ∀ (s : State) (rd rs1 : RegIdx) (a : BitVec 12), s.virt = false →
    ∀ form ∈ csrForms s rd a rs1,
      (s.csrAt s.xlen a = none
        ∨ (s.priv = .supervisor ∧ a.extractLsb' 8 2 = 3#2) ∨ (s.priv = .user ∧ a.extractLsb' 8 2 ≠ 0#2)
        ∨ (form.2.1 = true ∧ a.extractLsb' 10 2 = 3#2)
        ∨ (s.priv = .supervisor ∧ s.mstatus.tvm = true ∧ (a = 0x180#12 ∨ a = 0x680#12))
        ∨ ∃ n, CounterAddress a n ∧
          ((s.priv ≠ .machine ∧ s.m.counteren.getLsbD n = false)
            ∨ (s.priv = .user ∧ s.hasS = true ∧ s.s.counteren.getLsbD n = false))) →
      exec form.1 s = .next (s.takeIllegal (encode form.1))

/-- With V = 1 a register that does not exist or a machine-level one, or the write of a read-only one, is an illegal
instruction; a hypervisor register, or a supervisor one from VU-mode, that HS-mode could access is a virtual instruction,
and so is `satp` from VS-mode with VTVM = 1; a counter is an illegal instruction where `mcounteren` does not enable it, a
virtual one where only `hcounteren` or, from VU-mode, `scounteren` does not (R724, R725, R727, R728, R868). That a counter
which `scounteren` alone refuses in VU-mode is a virtual instruction is D47 (R728), which the model follows (DESIGN CHOICE,
log 23). So is, by the model's choice, that `htimedeltah` and `henvcfgh` count as registers that do not exist where
XLEN = 32 and HSXLEN = 64 (R45, R726; log 23). -/
def Obligations.CsrAccessFromGuest : Prop :=
  ∀ (s : State) (rd rs1 : RegIdx) (a : BitVec 12), s.virt = true →
    ∀ form ∈ csrForms s rd a rs1,
      (csrOf a = none ∨ a.extractLsb' 8 2 = 3#2 ∨ (form.2.1 = true ∧ a.extractLsb' 10 2 = 3#2)
          ∨ (∃ named, csrOf a = some named ∧ s.csrExists s.xlen named = false) →
        exec form.1 s = .next (s.takeIllegal (encode form.1)))
      ∧ ∀ named, csrOf a = some named → s.csrExists s.xlen named = true → (named.highHalf = true → s.xlen = .x32) →
        ¬ (form.2.1 = true ∧ a.extractLsb' 10 2 = 3#2) →
        (a.extractLsb' 8 2 = 2#2 ∨ (a.extractLsb' 8 2 = 1#2 ∧ s.priv = .user)
            ∨ (a = 0x180#12 ∧ s.priv = .supervisor ∧ s.h.status.vtvm = true) →
          exec form.1 s = .next (s.takeVirtual (encode form.1)))
        ∧ ∀ n, CounterAddress a n → s.priv ≠ .machine →
          (s.m.counteren.getLsbD n = false → exec form.1 s = .next (s.takeIllegal (encode form.1)))
          ∧ (s.m.counteren.getLsbD n = true →
              (s.h.counteren.getLsbD n = false ∨ (s.priv = .user ∧ s.s.counteren.getLsbD n = false)) →
              exec form.1 s = .next (s.takeVirtual (encode form.1)))

/-- CSRRW of the scratch registers swaps: `mscratch` in M-mode, `sscratch` in S-mode, and in VS-mode the same
number reaches `vsscratch` (R389, R730). -/
def Obligations.ScratchRegistersSwap : Prop :=
  ∀ (s : State) (rd rs1 : RegIdx),
    (s.priv = .machine → s.virt = false →
      ∃ t, exec (.csrrw rd 0x340 rs1) s = .next t ∧ s.Wrote t rd s.m.scratch
        ∧ t = { s with
            x := t.x, pc := sxTo s.xlen (s.pc + 4)
            m := { s.m with scratch := zxTo s.mxlen (s.readX rs1), instret := s.nextInstret } })
    ∧ (s.hasS = true → s.priv = .supervisor → s.virt = false →
      ∃ t, exec (.csrrw rd 0x140 rs1) s = .next t ∧ s.Wrote t rd s.s.scratch
        ∧ t = { s with
            x := t.x, pc := sxTo s.xlen (s.pc + 4), s := { s.s with scratch := zxTo s.sxlen (s.readX rs1) }
            m := { s.m with instret := s.nextInstret } })
    ∧ (s.hasS = true → s.priv = .supervisor → s.virt = true →
      ∃ t, exec (.csrrw rd 0x140 rs1) s = .next t ∧ s.Wrote t rd s.vs.scratch
        ∧ t = { s with
            x := t.x, pc := sxTo s.xlen (s.pc + 4), vs := { s.vs with scratch := zxTo s.vsxlen (s.readX rs1) }
            m := { s.m with instret := s.nextInstret } })

/-! ## Registers -/

/-- SD is bit MXLEN-1 of `mstatus`, the summary of FS, XS and VS as they read; `mstatush` has no such bit (R133). `sstatus`
is a view of `mstatus`: it shows SD at bit SXLEN-1, its fields as `mstatus` has them and no other bit, and a write of it
reaches these fields alone (R250). -/
def Obligations.SdSummarisesDirtyState : Prop :=
  ∀ s : State,
    let w := s.csrRead .mstatus
    let v := s.csrRead .sstatus
    let sd := decide (w.extractLsb' 13 2 = 3#2 ∨ w.extractLsb' 15 2 = 3#2 ∨ w.extractLsb' 9 2 = 3#2)
    (w.getLsbD (s.mxlen.bits - 1) = sd
      ∧ (s.csrRead .mstatush).getLsbD 31 = false ∧ (s.csrRead .mstatush).getLsbD 63 = false)
    ∧ (v.getLsbD (s.sxlen.bits - 1) = sd
      ∧ (∀ i ∈ sstatusBits, v.getLsbD i = w.getLsbD i)
      ∧ (s.sxlen = .x64 → v.extractLsb' 32 2 = w.extractLsb' 32 2)
      ∧ ∀ i, i ∉ sstatusBits → i ≠ s.sxlen.bits - 1 → (s.sxlen = .x64 → i ≠ 32 ∧ i ≠ 33) → v.getLsbD i = false)
    ∧ ∀ (rd rs1 : RegIdx), s.hasS = true → s.virt = false → s.priv ≠ .user →
      ∀ form ∈ csrForms s rd 0x100 rs1, form.2.1 = true →
        let new := form.2.2 v
        ∃ t, exec form.1 s = .next t
          ∧ t.mstatus.sie = new.getLsbD 1 ∧ t.mstatus.spie = new.getLsbD 5 ∧ t.mstatus.spp = new.getLsbD 8
          ∧ t.mstatus.mxr = new.getLsbD 19
          ∧ t.mstatus = { s.mstatus with
              sie := t.mstatus.sie, spie := t.mstatus.spie, spp := t.mstatus.spp, mxr := t.mstatus.mxr
              ube := t.mstatus.ube, vs := t.mstatus.vs, fs := t.mstatus.fs, sum := t.mstatus.sum
              uxl := t.mstatus.uxl }

/-- The interrupt-pending and interrupt-enable registers. SEIP reads as the OR of the software bit and the controller's
signal, in `mip` and, where delegated, in `sip`; every CSR instruction on `mip` computes the new software bits SSIP,
STIP and SEIP, where they are implemented, from the old ones alone, and one on `sip` reaches SSIP alone (R152, R153,
R265, R268). `sip` and `sie`, `hip` and `hie`, `vsip` and `vsie` show bits of `mip` and `mie`, and a write of an enable
register reaches the bits it shows (R265, R348, R396). That the platform bits which `hvip` can assert stand in `hip` and
`hie`, and not in `sip` and `sie`, is the model's choice (DESIGN CHOICE, log 33). That bits 16 and up of `mip` and `mie`
show at their own places in `vsip` and `vsie`, of which R396 gives bits 9, 5 and 1 only, is the decision D27 (R345),
which the model follows (DESIGN CHOICE, log 48). -/
def Obligations.SeipReadModifyWrite : Prop :=
  ∀ (s : State) (rd rs1 : RegIdx),
    let has (i : Nat) : Bool := s.cfg.sIrqMask.getLsbD i
    (s.priv = .machine → s.virt = false → s.hasS = true → ∀ form ∈ csrForms s rd 0x344 rs1,
      ∃ t, exec form.1 s = .next t
        ∧ (rd ≠ 0 → (t.readX rd).getLsbD 9 = (has 9 && (s.m.ip.getLsbD 9 || s.lines.seip)))
        ∧ ∀ i ∈ [1, 5, 9],
            t.m.ip.getLsbD i = if form.2.1 && has i then (form.2.2 s.m.ip).getLsbD i else s.m.ip.getLsbD i)
    ∧ (s.priv ≠ .user → s.virt = false → s.hasS = true → ∀ form ∈ csrForms s rd 0x144 rs1,
      ∃ t, exec form.1 s = .next t
        ∧ (rd ≠ 0 → (t.readX rd).getLsbD 9 = (s.mideleg.getLsbD 9 && has 9 && (s.m.ip.getLsbD 9 || s.lines.seip)))
        ∧ t.m.ip.getLsbD 9 = s.m.ip.getLsbD 9 ∧ t.m.ip.getLsbD 5 = s.m.ip.getLsbD 5
        ∧ t.m.ip.getLsbD 1
            = if form.2.1 && s.mideleg.getLsbD 1 && has 1 then (form.2.2 s.m.ip).getLsbD 1 else s.m.ip.getLsbD 1)
    ∧ (∀ view ∈ [(CsrReg.sip, CsrReg.mip, s.sShows), (.sie, .mie, s.sShows), (.hip, .mip, s.hShows),
          (.hie, .mie, s.hShows)],
        ∀ i, (s.csrRead view.1).getLsbD i = ((s.csrRead view.2.1).getLsbD i && view.2.2 i))
    ∧ (∀ view ∈ [(CsrReg.vsip, CsrReg.mip), (.vsie, .mie)],
        (∀ i ∈ [1, 5, 9], (s.csrRead view.1).getLsbD i = ((s.csrRead view.2).getLsbD (i + 1) && s.vsShows (i + 1)))
        ∧ (∀ i, 16 ≤ i → (s.csrRead view.1).getLsbD i = ((s.csrRead view.2).getLsbD i && s.vsShows i))
        ∧ ∀ i, i < 16 → i ∉ [1, 5, 9] → (s.csrRead view.1).getLsbD i = false)
    ∧ (s.priv ≠ .user → s.virt = false → ∀ view ∈ [(0x104#12, CsrReg.sie, s.hasS, s.sShows),
          (0x604#12, .hie, s.hasH, s.hShows)], view.2.2.1 = true →
        ∀ form ∈ csrForms s rd view.1 rs1, form.2.1 = true →
          ∃ t, exec form.1 s = .next t ∧ ∀ i, (t.csrRead .mie).getLsbD i
            = if view.2.2.2 i then (form.2.2 (s.csrRead view.2.1)).getLsbD i else (s.csrRead .mie).getLsbD i)
    ∧ (s.priv ≠ .user → s.virt = false → s.hasH = true →
        ∀ form ∈ csrForms s rd 0x204 rs1, form.2.1 = true →
          ∃ t, exec form.1 s = .next t ∧ ∀ i ∈ [1, 5, 9], (t.csrRead .mie).getLsbD (i + 1)
            = if s.vsShows (i + 1) then (form.2.2 (s.csrRead .vsie)).getLsbD i
              else (s.csrRead .mie).getLsbD (i + 1))

/-- A write of `satp` with an unsupported MODE has no effect on the register, by any CSR instruction, from M-mode or from
S-mode, at either width (R301). -/
def Obligations.SatpUnsupportedModeIgnored : Prop :=
  ∀ (s : State) (rd rs1 : RegIdx), s.hasS = true → s.virt = false →
    (s.priv = .machine ∨ (s.priv = .supervisor ∧ s.mstatus.tvm = false)) →
    ∀ form ∈ csrForms s rd 0x180 rs1, form.2.1 = true →
      let v := (form.2.2 (s.csrRead .satp)).toNat
      (s.sxlen = .x64 → v / 2 ^ 60 ≠ 0 ∧ (v / 2 ^ 60 = 8 → s.cfg.sv39 = false)
        ∧ (v / 2 ^ 60 = 9 → s.cfg.sv48 = false) ∧ (v / 2 ^ 60 = 10 → s.cfg.sv57 = false)) →
      (s.sxlen = .x32 → v / 2 ^ 31 % 2 = 1 ∧ s.cfg.sv32 = false) →
      ∃ t, exec form.1 s = .next t ∧ t.s = s.s ∧ t.tc = s.tc ∧ s.Wrote t rd (s.csrRead .satp)

/-- A write of `misa`, by any CSR instruction, that would raise IALIGN to 32 while the next instruction's address is not
4-byte aligned leaves `misa` unchanged; IALIGN is 16 exactly while C is enabled (R107). -/
def Obligations.MisaWriteSuppressed : Prop :=
  ∀ (s : State) (rd rs1 : RegIdx), s.ialign = (if s.hasC then 2 else 4) ∧
    (s.priv = .machine → s.virt = false → s.hasC = true → s.cfg.misaWritable.getLsbD Config.bitC = true →
      s.pc.getLsbD 1 = true →
      ∀ form ∈ csrForms s rd 0x301 rs1, form.2.1 = true →
        (form.2.2 (s.csrStored .misa)).getLsbD Config.bitC = false →
        ∃ t, exec form.1 s = .next t ∧ t.ext = s.ext ∧ t.mxl = s.mxl)

/-! ## Page-table walks -/

/-- The page-table walk of `satp`, and that of `hgatp` for a guest physical address, where no translation is remembered:
for the table that a walk comes to, what the entry there makes of it: an access fault if the entry may not be read; a page
fault for an invalid or reserved entry, a pointer at level 0, a leaf that denies the access or a misaligned superpage; the
address the leaf maps to, its A and D bits sufficing, or set by the hardware where that is the scheme (R552, R556, R562,
R563, R632 to R635). The faults of the G-stage are guest-page faults. Decisions that the model follows, both log 40
(DESIGN CHOICE): D, A or U in a non-leaf entry is a page fault or ignored as configured (D40), N there is a page fault
(D41). That Sv32 looks at no more than 32 bits of an address is the model's (DESIGN CHOICE, log 28). -/
def Obligations.PageTableWalk : Prop :=
  (∀ (s : State) (sc : Scheme) (kind : AccKind) (p : Priv) (o : Orig) (level a : Nat),
    s.noCache → s.hsScheme = some sc → canonical sc o.va = true →
    let w := s.satpWalk sc kind p o
    s.WalkReaches w level a →
    s.WalkEnds w level (w.entryAddr level a) (s.readPte w.stage (w.entryAddr level a))
      (fun m => { pa := m.pa, gPbmt := 0, sPbmt := m.pbmt : Target }) (s.translate1 kind false p o false))
  ∧ ∀ (s : State) (sc : Scheme) (gpa : Nat) (kind : AccKind) (hlvx : Bool) (implicit : Option Bool) (o : Orig)
      (level a : Nat),
    s.noCache → schemeOf s.sxlen s.h.gatp = some sc → gpa < 2 ^ (sc.vaBits + 2) →
    let w := s.hgatpWalk sc gpa kind hlvx implicit o
    s.WalkReaches w level a →
    s.WalkEnds w level (w.entryAddr level a) (s.readPte w.stage (w.entryAddr level a)) id
      (s.gTranslate gpa kind hlvx implicit o false)

/-- Two-stage translation: the G-stage translates the guest physical address the VS-stage gives, which with `vsatp` Bare is
the address itself; with both stages Bare it stands. Where no translation is remembered, a VS-stage walk reads each entry
where the G-stage puts it, as an implicit load, and a fault of that is the answer; the entry makes of the access what R552
says, its A and D bits set, where the hardware does that, by an implicit store. A guest physical address too wide for the
G-stage is a guest-page fault that reports it, also as the address of a VS-stage entry (R630 to R633, R640, R643, R648). A
trap for a guest-page fault shows the guest physical address shifted right by 2, or 0, and for an implicit access a
pseudoinstruction, or 0 with it (R371 to R373, R936). That the instruction register is 0 where the address shown is 0
is D59, that an address which does not fit the register shows as 0 the model's: both DESIGN CHOICE, log 26. For non-leaf
entries the walk follows D40 and D41 (log 40). -/
def Obligations.GuestPageFaults : Prop :=
  (∀ (s : State) (kind : AccKind) (hlvx : Bool) (p : Priv) (o : Orig),
    schemeOf s.vsxlen s.vs.atp = none →
    (schemeOf s.sxlen s.h.gatp = none →
      s.translate2 kind hlvx p o false = .ok { pa := o.va.toNat, gPbmt := 0, sPbmt := 0 } s)
    ∧ (s.translate2 kind hlvx p o false = match s.gTranslate o.va.toNat kind hlvx none o false with
        | .ok m t => .ok { pa := m.pa, gPbmt := m.pbmt, sPbmt := 0 } t
        | .exn e t => .exn e t))
  ∧ (∀ (s : State) (kind : AccKind) (hlvx : Bool) (p : Priv) (o : Orig) (sc : Scheme) (level a : Nat),
    s.noCache → schemeOf s.vsxlen s.vs.atp = some sc → canonical sc o.va = true →
    let w := s.vsatpWalk sc kind hlvx p o
    let q := w.entryAddr level a
    let first := s.vsTranslate kind hlvx p o false
    s.GuestWalkReaches w o level a →
    (∀ e t, s.gTranslate q .load false (some false) o false = .exn e t → first = .exn e t)
    ∧ (∀ pa, s.EntryAt o q false pa →
        (s.cfg.adUpdate = .hardware → s.readPte w.stage pa &&& adBits kind ≠ adBits kind → s.EntryAt o q true pa) →
        s.WalkEnds w level pa (s.readPte w.stage pa) id first)
    ∧ (s.translate2 kind hlvx p o false = match first with
        | .exn e t => .exn e t
        | .ok m t =>
          match t.gTranslate m.pa kind hlvx none o false with
          | .exn e u => .exn e u
          | .ok g u => .ok { pa := g.pa, gPbmt := g.pbmt, sPbmt := m.pbmt } u))
  ∧ (∀ (s : State) (kind access : AccKind) (hlvx : Bool) (gpa : Nat) (implicit : Option Bool) (o : Orig) (g : Scheme),
    schemeOf s.sxlen s.h.gatp = some g → 2 ^ (g.vaBits + 2) ≤ gpa →
    ∃ e : Excn, s.gTranslate gpa kind hlvx implicit { o with kind := access } false = .exn e s
      ∧ e.code.code = (match access with
          | .fetch => 20
          | .load => 21
          | .store => 23)
      ∧ e.tval = o.va ∧ e.guest = o.guest ∧ e.gpa = gpa ∧ e.implicit = implicit)
  ∧ (∀ (s : State) (kind : AccKind) (hlvx : Bool) (p : Priv) (o : Orig) (sc g : Scheme),
    s.tc = [] → schemeOf s.vsxlen s.vs.atp = some sc → schemeOf s.sxlen s.h.gatp = some g →
    (canonical sc o.va = false → s.translate2 kind hlvx p o false = .exn o.pageFault s)
    ∧ (canonical sc o.va = true → 2 ^ (g.vaBits + 2) ≤ s.vsRootEntry sc o.va →
        ∃ e : Excn, s.translate2 kind hlvx p o false = .exn e s
          ∧ e.code = (o.guestFault 0 none).code ∧ e.tval = o.va
          ∧ e.gpa = s.vsRootEntry sc o.va ∧ e.implicit = some false))
  ∧ ∀ (s : State) (w : BitVec 32) (e : Excn), s.hasH = true →
    (e.code = .instrGuest ∨ e.code = .loadGuest ∨ e.code = .storeGuest) →
    let t := s.takeException w e
    let shown : Word :=
      if s.cfg.xtval2Zero = true ∨ 2 ^ s.cfg.htvalBits ≤ e.gpa / 4 then 0 else BitVec.ofNat 64 (e.gpa / 4)
    let pseudo (isWrite : Bool) : Word :=
      if s.vsxlen = .x32 then (if isWrite then 0x2020 else 0x2000) else (if isWrite then 0x3020 else 0x3000)
    t.virt = false
      ∧ (t.priv = .machine → t.m.tval2 = zxTo s.mxlen shown
          ∧ ∀ b, e.implicit = some b → t.m.tinst = if shown = 0 then 0 else pseudo b)
      ∧ (t.priv ≠ .machine → t.h.tval = zxTo s.sxlen shown
          ∧ ∀ b, e.implicit = some b → t.h.tinst = if shown = 0 then 0 else pseudo b)

/-! ## Devices -/

/-- The timer and the software-interrupt word: MTIP is `mtime` reaching `mtimecmp`, MSIP the bit of the word; M-mode
stores set `mtimecmp`, whole or by halves, and the bit, and a load reads `mtime`; before each step `mtime` advances by the
ticks of the event and the event may write the bit (R920, R922). That MTIP follows at once is D58, where the bit stands in
its word D9: decisions that the model follows (log 44). -/
def Obligations.DeviceRegisters : Prop :=
  ∀ (s : State) (rs1 rs2 rd : RegIdx) (imm : BitVec 12),
    ((s.csrRead .mip).getLsbD 7 = decide (s.mtimecmp.toNat ≤ s.mtime.toNat) ∧ (s.csrRead .mip).getLsbD 3 = s.msip)
    ∧ (s.begin.mtime.toNat = (s.mtime.toNat + s.event.ticks) % 2 ^ 64
      ∧ s.begin.msip = s.event.writeMsip.getD s.msip)
    ∧ (s.priv = .machine → s.mxlen = .x64 → s.mstatus.mprv = false → s.mbe = false →
      let pa := (s.readX rs1 + imm.signExtend 64).toNat
      let v := s.readX rs2
      let t0 : Target := { pa := pa, gPbmt := 0, sPbmt := 0 }
      let apart (base : Nat) : Prop := base + 8 ≤ s.cfg.mtimeAddr ∨ s.cfg.mtimeAddr + 8 ≤ base
      (apart s.cfg.mtimecmpAddr → pa = s.cfg.mtimecmpAddr → pa % 8 = 0 →
        s.physAllowed { kind := .store, n := 8 } .machine t0 8 8 = true →
        ∃ t, exec (.sd rs1 rs2 imm) s = .next t ∧ t = { s.retire with mtimecmp := v })
      ∧ (apart s.cfg.mtimecmpAddr → pa % 4 = 0 → s.physAllowed { kind := .store, n := 4 } .machine t0 4 4 = true →
        (pa = s.cfg.mtimecmpAddr →
          ∃ t, exec (.sw rs1 rs2 imm) s = .next t
            ∧ t = { s.retire with mtimecmp := (s.mtimecmp &&& 0xFFFFFFFF00000000#64) ||| (v &&& 0xFFFFFFFF#64) })
        ∧ (pa = s.cfg.mtimecmpAddr + 4 →
          ∃ t, exec (.sw rs1 rs2 imm) s = .next t
            ∧ t = { s.retire with mtimecmp := (s.mtimecmp &&& 0xFFFFFFFF#64) ||| (v <<< 32) }))
      ∧ (apart s.cfg.msipAddr → (s.cfg.msipAddr + 8 ≤ s.cfg.mtimecmpAddr ∨ s.cfg.mtimecmpAddr + 8 ≤ s.cfg.msipAddr) →
        pa = s.cfg.msipAddr → pa % 4 = 0 →
        s.physAllowed { kind := .store, n := 4 } .machine t0 4 4 = true →
        ∃ t, exec (.sw rs1 rs2 imm) s = .next t ∧ t = { s.retire with msip := v.getLsbD 0 })
      ∧ (pa = s.cfg.mtimeAddr → pa % 8 = 0 →
        s.physAllowed { kind := .load, n := 8 } .machine t0 8 8 = true →
        Completes (.ld rd rs1 imm) s rd s.mtime (s.pc + 4)))
end

