-- ==== Sys2Proof/Laws/State.lean ====
section
/-! SUPPORT. What each update of the state leaves alone: one lemma per field per update, so that no later proof
unfolds a record update. -/

namespace Sys2Proof.Machine

open Sys2Proof

/-! ## Integer registers, `pc`, retirement -/

@[simp] theorem State.writeX_cfg (s : State) (r : RegIdx) (v : Word) : (s.writeX r v).cfg = s.cfg := by
  unfold State.writeX; split <;> rfl
@[simp] theorem State.writeX_pc (s : State) (r : RegIdx) (v : Word) : (s.writeX r v).pc = s.pc := by
  unfold State.writeX; split <;> rfl
@[simp] theorem State.writeX_priv (s : State) (r : RegIdx) (v : Word) : (s.writeX r v).priv = s.priv := by
  unfold State.writeX; split <;> rfl
@[simp] theorem State.writeX_virt (s : State) (r : RegIdx) (v : Word) : (s.writeX r v).virt = s.virt := by
  unfold State.writeX; split <;> rfl
@[simp] theorem State.writeX_mxl (s : State) (r : RegIdx) (v : Word) : (s.writeX r v).mxl = s.mxl := by
  unfold State.writeX; split <;> rfl
@[simp] theorem State.writeX_ext (s : State) (r : RegIdx) (v : Word) : (s.writeX r v).ext = s.ext := by
  unfold State.writeX; split <;> rfl
@[simp] theorem State.writeX_mstatus (s : State) (r : RegIdx) (v : Word) : (s.writeX r v).mstatus = s.mstatus := by
  unfold State.writeX; split <;> rfl
@[simp] theorem State.writeX_m (s : State) (r : RegIdx) (v : Word) : (s.writeX r v).m = s.m := by
  unfold State.writeX; split <;> rfl
@[simp] theorem State.writeX_pmpcfg (s : State) (r : RegIdx) (v : Word) : (s.writeX r v).pmpcfg = s.pmpcfg := by
  unfold State.writeX; split <;> rfl
@[simp] theorem State.writeX_pmpaddr (s : State) (r : RegIdx) (v : Word) : (s.writeX r v).pmpaddr = s.pmpaddr := by
  unfold State.writeX; split <;> rfl
@[simp] theorem State.writeX_s (s : State) (r : RegIdx) (v : Word) : (s.writeX r v).s = s.s := by
  unfold State.writeX; split <;> rfl
@[simp] theorem State.writeX_h (s : State) (r : RegIdx) (v : Word) : (s.writeX r v).h = s.h := by
  unfold State.writeX; split <;> rfl
@[simp] theorem State.writeX_vs (s : State) (r : RegIdx) (v : Word) : (s.writeX r v).vs = s.vs := by
  unfold State.writeX; split <;> rfl
@[simp] theorem State.writeX_lines (s : State) (r : RegIdx) (v : Word) : (s.writeX r v).lines = s.lines := by
  unfold State.writeX; split <;> rfl
@[simp] theorem State.writeX_mtime (s : State) (r : RegIdx) (v : Word) : (s.writeX r v).mtime = s.mtime := by
  unfold State.writeX; split <;> rfl
@[simp] theorem State.writeX_mtimecmp (s : State) (r : RegIdx) (v : Word) : (s.writeX r v).mtimecmp = s.mtimecmp := by
  unfold State.writeX; split <;> rfl
@[simp] theorem State.writeX_msip (s : State) (r : RegIdx) (v : Word) : (s.writeX r v).msip = s.msip := by
  unfold State.writeX; split <;> rfl
@[simp] theorem State.writeX_reservation (s : State) (r : RegIdx) (v : Word) : (s.writeX r v).reservation = s.reservation := by
  unfold State.writeX; split <;> rfl
@[simp] theorem State.writeX_stalled (s : State) (r : RegIdx) (v : Word) : (s.writeX r v).stalled = s.stalled := by
  unfold State.writeX; split <;> rfl
@[simp] theorem State.writeX_tc (s : State) (r : RegIdx) (v : Word) : (s.writeX r v).tc = s.tc := by
  unfold State.writeX; split <;> rfl
@[simp] theorem State.writeX_pmpStale (s : State) (r : RegIdx) (v : Word) : (s.writeX r v).pmpStale = s.pmpStale := by
  unfold State.writeX; split <;> rfl
@[simp] theorem State.writeX_pmpStaleG (s : State) (r : RegIdx) (v : Word) : (s.writeX r v).pmpStaleG = s.pmpStaleG := by
  unfold State.writeX; split <;> rfl
@[simp] theorem State.writeX_mem (s : State) (r : RegIdx) (v : Word) : (s.writeX r v).mem = s.mem := by
  unfold State.writeX; split <;> rfl
@[simp] theorem State.writeX_env (s : State) (r : RegIdx) (v : Word) : (s.writeX r v).env = s.env := by
  unfold State.writeX; split <;> rfl
@[simp] theorem State.writeX_draws (s : State) (r : RegIdx) (v : Word) : (s.writeX r v).draws = s.draws := by
  unfold State.writeX; split <;> rfl

@[simp] theorem State.setPc_cfg (s : State) (v : Word) : (s.setPc v).cfg = s.cfg := rfl
@[simp] theorem State.setPc_x (s : State) (v : Word) : (s.setPc v).x = s.x := rfl
@[simp] theorem State.setPc_priv (s : State) (v : Word) : (s.setPc v).priv = s.priv := rfl
@[simp] theorem State.setPc_virt (s : State) (v : Word) : (s.setPc v).virt = s.virt := rfl
@[simp] theorem State.setPc_mxl (s : State) (v : Word) : (s.setPc v).mxl = s.mxl := rfl
@[simp] theorem State.setPc_ext (s : State) (v : Word) : (s.setPc v).ext = s.ext := rfl
@[simp] theorem State.setPc_mstatus (s : State) (v : Word) : (s.setPc v).mstatus = s.mstatus := rfl
@[simp] theorem State.setPc_m (s : State) (v : Word) : (s.setPc v).m = s.m := rfl
@[simp] theorem State.setPc_pmpcfg (s : State) (v : Word) : (s.setPc v).pmpcfg = s.pmpcfg := rfl
@[simp] theorem State.setPc_pmpaddr (s : State) (v : Word) : (s.setPc v).pmpaddr = s.pmpaddr := rfl
@[simp] theorem State.setPc_s (s : State) (v : Word) : (s.setPc v).s = s.s := rfl
@[simp] theorem State.setPc_h (s : State) (v : Word) : (s.setPc v).h = s.h := rfl
@[simp] theorem State.setPc_vs (s : State) (v : Word) : (s.setPc v).vs = s.vs := rfl
@[simp] theorem State.setPc_lines (s : State) (v : Word) : (s.setPc v).lines = s.lines := rfl
@[simp] theorem State.setPc_mtime (s : State) (v : Word) : (s.setPc v).mtime = s.mtime := rfl
@[simp] theorem State.setPc_mtimecmp (s : State) (v : Word) : (s.setPc v).mtimecmp = s.mtimecmp := rfl
@[simp] theorem State.setPc_msip (s : State) (v : Word) : (s.setPc v).msip = s.msip := rfl
@[simp] theorem State.setPc_reservation (s : State) (v : Word) : (s.setPc v).reservation = s.reservation := rfl
@[simp] theorem State.setPc_stalled (s : State) (v : Word) : (s.setPc v).stalled = s.stalled := rfl
@[simp] theorem State.setPc_tc (s : State) (v : Word) : (s.setPc v).tc = s.tc := rfl
@[simp] theorem State.setPc_pmpStale (s : State) (v : Word) : (s.setPc v).pmpStale = s.pmpStale := rfl
@[simp] theorem State.setPc_pmpStaleG (s : State) (v : Word) : (s.setPc v).pmpStaleG = s.pmpStaleG := rfl
@[simp] theorem State.setPc_mem (s : State) (v : Word) : (s.setPc v).mem = s.mem := rfl
@[simp] theorem State.setPc_env (s : State) (v : Word) : (s.setPc v).env = s.env := rfl
@[simp] theorem State.setPc_draws (s : State) (v : Word) : (s.setPc v).draws = s.draws := rfl

@[simp] theorem State.countRetired_cfg (s : State) : (s.countRetired).cfg = s.cfg := by
  unfold State.countRetired; split <;> rfl
@[simp] theorem State.countRetired_x (s : State) : (s.countRetired).x = s.x := by
  unfold State.countRetired; split <;> rfl
@[simp] theorem State.countRetired_pc (s : State) : (s.countRetired).pc = s.pc := by
  unfold State.countRetired; split <;> rfl
@[simp] theorem State.countRetired_priv (s : State) : (s.countRetired).priv = s.priv := by
  unfold State.countRetired; split <;> rfl
@[simp] theorem State.countRetired_virt (s : State) : (s.countRetired).virt = s.virt := by
  unfold State.countRetired; split <;> rfl
@[simp] theorem State.countRetired_mxl (s : State) : (s.countRetired).mxl = s.mxl := by
  unfold State.countRetired; split <;> rfl
@[simp] theorem State.countRetired_ext (s : State) : (s.countRetired).ext = s.ext := by
  unfold State.countRetired; split <;> rfl
@[simp] theorem State.countRetired_mstatus (s : State) : (s.countRetired).mstatus = s.mstatus := by
  unfold State.countRetired; split <;> rfl
@[simp] theorem State.countRetired_pmpcfg (s : State) : (s.countRetired).pmpcfg = s.pmpcfg := by
  unfold State.countRetired; split <;> rfl
@[simp] theorem State.countRetired_pmpaddr (s : State) : (s.countRetired).pmpaddr = s.pmpaddr := by
  unfold State.countRetired; split <;> rfl
@[simp] theorem State.countRetired_s (s : State) : (s.countRetired).s = s.s := by
  unfold State.countRetired; split <;> rfl
@[simp] theorem State.countRetired_h (s : State) : (s.countRetired).h = s.h := by
  unfold State.countRetired; split <;> rfl
@[simp] theorem State.countRetired_vs (s : State) : (s.countRetired).vs = s.vs := by
  unfold State.countRetired; split <;> rfl
@[simp] theorem State.countRetired_lines (s : State) : (s.countRetired).lines = s.lines := by
  unfold State.countRetired; split <;> rfl
@[simp] theorem State.countRetired_mtime (s : State) : (s.countRetired).mtime = s.mtime := by
  unfold State.countRetired; split <;> rfl
@[simp] theorem State.countRetired_mtimecmp (s : State) : (s.countRetired).mtimecmp = s.mtimecmp := by
  unfold State.countRetired; split <;> rfl
@[simp] theorem State.countRetired_msip (s : State) : (s.countRetired).msip = s.msip := by
  unfold State.countRetired; split <;> rfl
@[simp] theorem State.countRetired_reservation (s : State) : (s.countRetired).reservation = s.reservation := by
  unfold State.countRetired; split <;> rfl
@[simp] theorem State.countRetired_stalled (s : State) : (s.countRetired).stalled = s.stalled := by
  unfold State.countRetired; split <;> rfl
@[simp] theorem State.countRetired_tc (s : State) : (s.countRetired).tc = s.tc := by
  unfold State.countRetired; split <;> rfl
@[simp] theorem State.countRetired_pmpStale (s : State) : (s.countRetired).pmpStale = s.pmpStale := by
  unfold State.countRetired; split <;> rfl
@[simp] theorem State.countRetired_pmpStaleG (s : State) : (s.countRetired).pmpStaleG = s.pmpStaleG := by
  unfold State.countRetired; split <;> rfl
@[simp] theorem State.countRetired_mem (s : State) : (s.countRetired).mem = s.mem := by
  unfold State.countRetired; split <;> rfl
@[simp] theorem State.countRetired_env (s : State) : (s.countRetired).env = s.env := by
  unfold State.countRetired; split <;> rfl
@[simp] theorem State.countRetired_draws (s : State) : (s.countRetired).draws = s.draws := by
  unfold State.countRetired; split <;> rfl

@[simp] theorem State.countRetired_m_tvec (s : State) : (s.countRetired).m.tvec = s.m.tvec := by
  unfold State.countRetired; split <;> rfl
@[simp] theorem State.countRetired_m_edeleg (s : State) : (s.countRetired).m.edeleg = s.m.edeleg := by
  unfold State.countRetired; split <;> rfl
@[simp] theorem State.countRetired_m_ideleg (s : State) : (s.countRetired).m.ideleg = s.m.ideleg := by
  unfold State.countRetired; split <;> rfl
@[simp] theorem State.countRetired_m_ie (s : State) : (s.countRetired).m.ie = s.m.ie := by
  unfold State.countRetired; split <;> rfl
@[simp] theorem State.countRetired_m_ip (s : State) : (s.countRetired).m.ip = s.m.ip := by
  unfold State.countRetired; split <;> rfl
@[simp] theorem State.countRetired_m_counteren (s : State) : (s.countRetired).m.counteren = s.m.counteren := by
  unfold State.countRetired; split <;> rfl
@[simp] theorem State.countRetired_m_countinhibit (s : State) : (s.countRetired).m.countinhibit = s.m.countinhibit := by
  unfold State.countRetired; split <;> rfl
@[simp] theorem State.countRetired_m_scratch (s : State) : (s.countRetired).m.scratch = s.m.scratch := by
  unfold State.countRetired; split <;> rfl
@[simp] theorem State.countRetired_m_epc (s : State) : (s.countRetired).m.epc = s.m.epc := by
  unfold State.countRetired; split <;> rfl
@[simp] theorem State.countRetired_m_cause (s : State) : (s.countRetired).m.cause = s.m.cause := by
  unfold State.countRetired; split <;> rfl
@[simp] theorem State.countRetired_m_tval (s : State) : (s.countRetired).m.tval = s.m.tval := by
  unfold State.countRetired; split <;> rfl
@[simp] theorem State.countRetired_m_tval2 (s : State) : (s.countRetired).m.tval2 = s.m.tval2 := by
  unfold State.countRetired; split <;> rfl
@[simp] theorem State.countRetired_m_tinst (s : State) : (s.countRetired).m.tinst = s.m.tinst := by
  unfold State.countRetired; split <;> rfl
@[simp] theorem State.countRetired_m_fiom (s : State) : (s.countRetired).m.fiom = s.m.fiom := by
  unfold State.countRetired; split <;> rfl
@[simp] theorem State.countRetired_m_pbmte (s : State) : (s.countRetired).m.pbmte = s.m.pbmte := by
  unfold State.countRetired; split <;> rfl
@[simp] theorem State.countRetired_m_cycle (s : State) : (s.countRetired).m.cycle = s.m.cycle := by
  unfold State.countRetired; split <;> rfl
@[simp] theorem State.countRetired_m_hpmcounter (s : State) : (s.countRetired).m.hpmcounter = s.m.hpmcounter := by
  unfold State.countRetired; split <;> rfl
@[simp] theorem State.countRetired_m_hpmevent (s : State) : (s.countRetired).m.hpmevent = s.m.hpmevent := by
  unfold State.countRetired; split <;> rfl

@[simp] theorem State.retireTo_cfg (s : State) (v : Word) : (s.retireTo v).cfg = s.cfg := by
  simp [State.retireTo]
@[simp] theorem State.retireTo_x (s : State) (v : Word) : (s.retireTo v).x = s.x := by
  simp [State.retireTo]
@[simp] theorem State.retireTo_priv (s : State) (v : Word) : (s.retireTo v).priv = s.priv := by
  simp [State.retireTo]
@[simp] theorem State.retireTo_virt (s : State) (v : Word) : (s.retireTo v).virt = s.virt := by
  simp [State.retireTo]
@[simp] theorem State.retireTo_mxl (s : State) (v : Word) : (s.retireTo v).mxl = s.mxl := by
  simp [State.retireTo]
@[simp] theorem State.retireTo_ext (s : State) (v : Word) : (s.retireTo v).ext = s.ext := by
  simp [State.retireTo]
@[simp] theorem State.retireTo_mstatus (s : State) (v : Word) : (s.retireTo v).mstatus = s.mstatus := by
  simp [State.retireTo]
@[simp] theorem State.retireTo_pmpcfg (s : State) (v : Word) : (s.retireTo v).pmpcfg = s.pmpcfg := by
  simp [State.retireTo]
@[simp] theorem State.retireTo_pmpaddr (s : State) (v : Word) : (s.retireTo v).pmpaddr = s.pmpaddr := by
  simp [State.retireTo]
@[simp] theorem State.retireTo_s (s : State) (v : Word) : (s.retireTo v).s = s.s := by
  simp [State.retireTo]
@[simp] theorem State.retireTo_h (s : State) (v : Word) : (s.retireTo v).h = s.h := by
  simp [State.retireTo]
@[simp] theorem State.retireTo_vs (s : State) (v : Word) : (s.retireTo v).vs = s.vs := by
  simp [State.retireTo]
@[simp] theorem State.retireTo_lines (s : State) (v : Word) : (s.retireTo v).lines = s.lines := by
  simp [State.retireTo]
@[simp] theorem State.retireTo_mtime (s : State) (v : Word) : (s.retireTo v).mtime = s.mtime := by
  simp [State.retireTo]
@[simp] theorem State.retireTo_mtimecmp (s : State) (v : Word) : (s.retireTo v).mtimecmp = s.mtimecmp := by
  simp [State.retireTo]
@[simp] theorem State.retireTo_msip (s : State) (v : Word) : (s.retireTo v).msip = s.msip := by
  simp [State.retireTo]
@[simp] theorem State.retireTo_reservation (s : State) (v : Word) : (s.retireTo v).reservation = s.reservation := by
  simp [State.retireTo]
@[simp] theorem State.retireTo_stalled (s : State) (v : Word) : (s.retireTo v).stalled = s.stalled := by
  simp [State.retireTo]
@[simp] theorem State.retireTo_tc (s : State) (v : Word) : (s.retireTo v).tc = s.tc := by
  simp [State.retireTo]
@[simp] theorem State.retireTo_pmpStale (s : State) (v : Word) : (s.retireTo v).pmpStale = s.pmpStale := by
  simp [State.retireTo]
@[simp] theorem State.retireTo_pmpStaleG (s : State) (v : Word) : (s.retireTo v).pmpStaleG = s.pmpStaleG := by
  simp [State.retireTo]
@[simp] theorem State.retireTo_mem (s : State) (v : Word) : (s.retireTo v).mem = s.mem := by
  simp [State.retireTo]
@[simp] theorem State.retireTo_env (s : State) (v : Word) : (s.retireTo v).env = s.env := by
  simp [State.retireTo]
@[simp] theorem State.retireTo_draws (s : State) (v : Word) : (s.retireTo v).draws = s.draws := by
  simp [State.retireTo]

@[simp] theorem State.retireTo_m_tvec (s : State) (v : Word) : (s.retireTo v).m.tvec = s.m.tvec := by
  simp [State.retireTo]
@[simp] theorem State.retireTo_m_edeleg (s : State) (v : Word) : (s.retireTo v).m.edeleg = s.m.edeleg := by
  simp [State.retireTo]
@[simp] theorem State.retireTo_m_ideleg (s : State) (v : Word) : (s.retireTo v).m.ideleg = s.m.ideleg := by
  simp [State.retireTo]
@[simp] theorem State.retireTo_m_ie (s : State) (v : Word) : (s.retireTo v).m.ie = s.m.ie := by
  simp [State.retireTo]
@[simp] theorem State.retireTo_m_ip (s : State) (v : Word) : (s.retireTo v).m.ip = s.m.ip := by
  simp [State.retireTo]
@[simp] theorem State.retireTo_m_counteren (s : State) (v : Word) : (s.retireTo v).m.counteren = s.m.counteren := by
  simp [State.retireTo]
@[simp] theorem State.retireTo_m_countinhibit (s : State) (v : Word) : (s.retireTo v).m.countinhibit = s.m.countinhibit := by
  simp [State.retireTo]
@[simp] theorem State.retireTo_m_scratch (s : State) (v : Word) : (s.retireTo v).m.scratch = s.m.scratch := by
  simp [State.retireTo]
@[simp] theorem State.retireTo_m_epc (s : State) (v : Word) : (s.retireTo v).m.epc = s.m.epc := by
  simp [State.retireTo]
@[simp] theorem State.retireTo_m_cause (s : State) (v : Word) : (s.retireTo v).m.cause = s.m.cause := by
  simp [State.retireTo]
@[simp] theorem State.retireTo_m_tval (s : State) (v : Word) : (s.retireTo v).m.tval = s.m.tval := by
  simp [State.retireTo]
@[simp] theorem State.retireTo_m_tval2 (s : State) (v : Word) : (s.retireTo v).m.tval2 = s.m.tval2 := by
  simp [State.retireTo]
@[simp] theorem State.retireTo_m_tinst (s : State) (v : Word) : (s.retireTo v).m.tinst = s.m.tinst := by
  simp [State.retireTo]
@[simp] theorem State.retireTo_m_fiom (s : State) (v : Word) : (s.retireTo v).m.fiom = s.m.fiom := by
  simp [State.retireTo]
@[simp] theorem State.retireTo_m_pbmte (s : State) (v : Word) : (s.retireTo v).m.pbmte = s.m.pbmte := by
  simp [State.retireTo]
@[simp] theorem State.retireTo_m_cycle (s : State) (v : Word) : (s.retireTo v).m.cycle = s.m.cycle := by
  simp [State.retireTo]
@[simp] theorem State.retireTo_m_hpmcounter (s : State) (v : Word) : (s.retireTo v).m.hpmcounter = s.m.hpmcounter := by
  simp [State.retireTo]
@[simp] theorem State.retireTo_m_hpmevent (s : State) (v : Word) : (s.retireTo v).m.hpmevent = s.m.hpmevent := by
  simp [State.retireTo]

@[simp] theorem State.retire_cfg (s : State) : (s.retire).cfg = s.cfg := by
  simp [State.retire]
@[simp] theorem State.retire_x (s : State) : (s.retire).x = s.x := by
  simp [State.retire]
@[simp] theorem State.retire_priv (s : State) : (s.retire).priv = s.priv := by
  simp [State.retire]
@[simp] theorem State.retire_virt (s : State) : (s.retire).virt = s.virt := by
  simp [State.retire]
@[simp] theorem State.retire_mxl (s : State) : (s.retire).mxl = s.mxl := by
  simp [State.retire]
@[simp] theorem State.retire_ext (s : State) : (s.retire).ext = s.ext := by
  simp [State.retire]
@[simp] theorem State.retire_mstatus (s : State) : (s.retire).mstatus = s.mstatus := by
  simp [State.retire]
@[simp] theorem State.retire_pmpcfg (s : State) : (s.retire).pmpcfg = s.pmpcfg := by
  simp [State.retire]
@[simp] theorem State.retire_pmpaddr (s : State) : (s.retire).pmpaddr = s.pmpaddr := by
  simp [State.retire]
@[simp] theorem State.retire_s (s : State) : (s.retire).s = s.s := by
  simp [State.retire]
@[simp] theorem State.retire_h (s : State) : (s.retire).h = s.h := by
  simp [State.retire]
@[simp] theorem State.retire_vs (s : State) : (s.retire).vs = s.vs := by
  simp [State.retire]
@[simp] theorem State.retire_lines (s : State) : (s.retire).lines = s.lines := by
  simp [State.retire]
@[simp] theorem State.retire_mtime (s : State) : (s.retire).mtime = s.mtime := by
  simp [State.retire]
@[simp] theorem State.retire_mtimecmp (s : State) : (s.retire).mtimecmp = s.mtimecmp := by
  simp [State.retire]
@[simp] theorem State.retire_msip (s : State) : (s.retire).msip = s.msip := by
  simp [State.retire]
@[simp] theorem State.retire_reservation (s : State) : (s.retire).reservation = s.reservation := by
  simp [State.retire]
@[simp] theorem State.retire_stalled (s : State) : (s.retire).stalled = s.stalled := by
  simp [State.retire]
@[simp] theorem State.retire_tc (s : State) : (s.retire).tc = s.tc := by
  simp [State.retire]
@[simp] theorem State.retire_pmpStale (s : State) : (s.retire).pmpStale = s.pmpStale := by
  simp [State.retire]
@[simp] theorem State.retire_pmpStaleG (s : State) : (s.retire).pmpStaleG = s.pmpStaleG := by
  simp [State.retire]
@[simp] theorem State.retire_mem (s : State) : (s.retire).mem = s.mem := by
  simp [State.retire]
@[simp] theorem State.retire_env (s : State) : (s.retire).env = s.env := by
  simp [State.retire]
@[simp] theorem State.retire_draws (s : State) : (s.retire).draws = s.draws := by
  simp [State.retire]

@[simp] theorem State.retire_m_tvec (s : State) : (s.retire).m.tvec = s.m.tvec := by
  simp [State.retire]
@[simp] theorem State.retire_m_edeleg (s : State) : (s.retire).m.edeleg = s.m.edeleg := by
  simp [State.retire]
@[simp] theorem State.retire_m_ideleg (s : State) : (s.retire).m.ideleg = s.m.ideleg := by
  simp [State.retire]
@[simp] theorem State.retire_m_ie (s : State) : (s.retire).m.ie = s.m.ie := by
  simp [State.retire]
@[simp] theorem State.retire_m_ip (s : State) : (s.retire).m.ip = s.m.ip := by
  simp [State.retire]
@[simp] theorem State.retire_m_counteren (s : State) : (s.retire).m.counteren = s.m.counteren := by
  simp [State.retire]
@[simp] theorem State.retire_m_countinhibit (s : State) : (s.retire).m.countinhibit = s.m.countinhibit := by
  simp [State.retire]
@[simp] theorem State.retire_m_scratch (s : State) : (s.retire).m.scratch = s.m.scratch := by
  simp [State.retire]
@[simp] theorem State.retire_m_epc (s : State) : (s.retire).m.epc = s.m.epc := by
  simp [State.retire]
@[simp] theorem State.retire_m_cause (s : State) : (s.retire).m.cause = s.m.cause := by
  simp [State.retire]
@[simp] theorem State.retire_m_tval (s : State) : (s.retire).m.tval = s.m.tval := by
  simp [State.retire]
@[simp] theorem State.retire_m_tval2 (s : State) : (s.retire).m.tval2 = s.m.tval2 := by
  simp [State.retire]
@[simp] theorem State.retire_m_tinst (s : State) : (s.retire).m.tinst = s.m.tinst := by
  simp [State.retire]
@[simp] theorem State.retire_m_fiom (s : State) : (s.retire).m.fiom = s.m.fiom := by
  simp [State.retire]
@[simp] theorem State.retire_m_pbmte (s : State) : (s.retire).m.pbmte = s.m.pbmte := by
  simp [State.retire]
@[simp] theorem State.retire_m_cycle (s : State) : (s.retire).m.cycle = s.m.cycle := by
  simp [State.retire]
@[simp] theorem State.retire_m_hpmcounter (s : State) : (s.retire).m.hpmcounter = s.m.hpmcounter := by
  simp [State.retire]
@[simp] theorem State.retire_m_hpmevent (s : State) : (s.retire).m.hpmevent = s.m.hpmevent := by
  simp [State.retire]

@[simp] theorem State.drew_cfg (s : State) : (s.drew).cfg = s.cfg := rfl
@[simp] theorem State.drew_x (s : State) : (s.drew).x = s.x := rfl
@[simp] theorem State.drew_pc (s : State) : (s.drew).pc = s.pc := rfl
@[simp] theorem State.drew_priv (s : State) : (s.drew).priv = s.priv := rfl
@[simp] theorem State.drew_virt (s : State) : (s.drew).virt = s.virt := rfl
@[simp] theorem State.drew_mxl (s : State) : (s.drew).mxl = s.mxl := rfl
@[simp] theorem State.drew_ext (s : State) : (s.drew).ext = s.ext := rfl
@[simp] theorem State.drew_mstatus (s : State) : (s.drew).mstatus = s.mstatus := rfl
@[simp] theorem State.drew_m (s : State) : (s.drew).m = s.m := rfl
@[simp] theorem State.drew_pmpcfg (s : State) : (s.drew).pmpcfg = s.pmpcfg := rfl
@[simp] theorem State.drew_pmpaddr (s : State) : (s.drew).pmpaddr = s.pmpaddr := rfl
@[simp] theorem State.drew_s (s : State) : (s.drew).s = s.s := rfl
@[simp] theorem State.drew_h (s : State) : (s.drew).h = s.h := rfl
@[simp] theorem State.drew_vs (s : State) : (s.drew).vs = s.vs := rfl
@[simp] theorem State.drew_lines (s : State) : (s.drew).lines = s.lines := rfl
@[simp] theorem State.drew_mtime (s : State) : (s.drew).mtime = s.mtime := rfl
@[simp] theorem State.drew_mtimecmp (s : State) : (s.drew).mtimecmp = s.mtimecmp := rfl
@[simp] theorem State.drew_msip (s : State) : (s.drew).msip = s.msip := rfl
@[simp] theorem State.drew_reservation (s : State) : (s.drew).reservation = s.reservation := rfl
@[simp] theorem State.drew_stalled (s : State) : (s.drew).stalled = s.stalled := rfl
@[simp] theorem State.drew_tc (s : State) : (s.drew).tc = s.tc := rfl
@[simp] theorem State.drew_pmpStale (s : State) : (s.drew).pmpStale = s.pmpStale := rfl
@[simp] theorem State.drew_pmpStaleG (s : State) : (s.drew).pmpStaleG = s.pmpStaleG := rfl
@[simp] theorem State.drew_mem (s : State) : (s.drew).mem = s.mem := rfl
@[simp] theorem State.drew_env (s : State) : (s.drew).env = s.env := rfl

@[simp] theorem State.awake_cfg (s : State) : (s.awake).cfg = s.cfg := by
  unfold State.awake; split <;> rfl
@[simp] theorem State.awake_x (s : State) : (s.awake).x = s.x := by
  unfold State.awake; split <;> rfl
@[simp] theorem State.awake_pc (s : State) : (s.awake).pc = s.pc := by
  unfold State.awake; split <;> rfl
@[simp] theorem State.awake_priv (s : State) : (s.awake).priv = s.priv := by
  unfold State.awake; split <;> rfl
@[simp] theorem State.awake_virt (s : State) : (s.awake).virt = s.virt := by
  unfold State.awake; split <;> rfl
@[simp] theorem State.awake_mxl (s : State) : (s.awake).mxl = s.mxl := by
  unfold State.awake; split <;> rfl
@[simp] theorem State.awake_ext (s : State) : (s.awake).ext = s.ext := by
  unfold State.awake; split <;> rfl
@[simp] theorem State.awake_mstatus (s : State) : (s.awake).mstatus = s.mstatus := by
  unfold State.awake; split <;> rfl
@[simp] theorem State.awake_m (s : State) : (s.awake).m = s.m := by
  unfold State.awake; split <;> rfl
@[simp] theorem State.awake_pmpcfg (s : State) : (s.awake).pmpcfg = s.pmpcfg := by
  unfold State.awake; split <;> rfl
@[simp] theorem State.awake_pmpaddr (s : State) : (s.awake).pmpaddr = s.pmpaddr := by
  unfold State.awake; split <;> rfl
@[simp] theorem State.awake_s (s : State) : (s.awake).s = s.s := by
  unfold State.awake; split <;> rfl
@[simp] theorem State.awake_h (s : State) : (s.awake).h = s.h := by
  unfold State.awake; split <;> rfl
@[simp] theorem State.awake_vs (s : State) : (s.awake).vs = s.vs := by
  unfold State.awake; split <;> rfl
@[simp] theorem State.awake_lines (s : State) : (s.awake).lines = s.lines := by
  unfold State.awake; split <;> rfl
@[simp] theorem State.awake_mtime (s : State) : (s.awake).mtime = s.mtime := by
  unfold State.awake; split <;> rfl
@[simp] theorem State.awake_mtimecmp (s : State) : (s.awake).mtimecmp = s.mtimecmp := by
  unfold State.awake; split <;> rfl
@[simp] theorem State.awake_msip (s : State) : (s.awake).msip = s.msip := by
  unfold State.awake; split <;> rfl
@[simp] theorem State.awake_reservation (s : State) : (s.awake).reservation = s.reservation := by
  unfold State.awake; split <;> rfl
@[simp] theorem State.awake_tc (s : State) : (s.awake).tc = s.tc := by
  unfold State.awake; split <;> rfl
@[simp] theorem State.awake_pmpStale (s : State) : (s.awake).pmpStale = s.pmpStale := by
  unfold State.awake; split <;> rfl
@[simp] theorem State.awake_pmpStaleG (s : State) : (s.awake).pmpStaleG = s.pmpStaleG := by
  unfold State.awake; split <;> rfl
@[simp] theorem State.awake_mem (s : State) : (s.awake).mem = s.mem := by
  unfold State.awake; split <;> rfl
@[simp] theorem State.awake_env (s : State) : (s.awake).env = s.env := by
  unfold State.awake; split <;> rfl

/-! ## Memory -/

@[simp] theorem State.writePhys_cfg (s : State) (a : Nat) (b : Byte) : (s.writePhys a b).cfg = s.cfg := by
  unfold State.writePhys; repeat (first | rfl | split)
@[simp] theorem State.writePhys_x (s : State) (a : Nat) (b : Byte) : (s.writePhys a b).x = s.x := by
  unfold State.writePhys; repeat (first | rfl | split)
@[simp] theorem State.writePhys_pc (s : State) (a : Nat) (b : Byte) : (s.writePhys a b).pc = s.pc := by
  unfold State.writePhys; repeat (first | rfl | split)
@[simp] theorem State.writePhys_priv (s : State) (a : Nat) (b : Byte) : (s.writePhys a b).priv = s.priv := by
  unfold State.writePhys; repeat (first | rfl | split)
@[simp] theorem State.writePhys_virt (s : State) (a : Nat) (b : Byte) : (s.writePhys a b).virt = s.virt := by
  unfold State.writePhys; repeat (first | rfl | split)
@[simp] theorem State.writePhys_mxl (s : State) (a : Nat) (b : Byte) : (s.writePhys a b).mxl = s.mxl := by
  unfold State.writePhys; repeat (first | rfl | split)
@[simp] theorem State.writePhys_ext (s : State) (a : Nat) (b : Byte) : (s.writePhys a b).ext = s.ext := by
  unfold State.writePhys; repeat (first | rfl | split)
@[simp] theorem State.writePhys_mstatus (s : State) (a : Nat) (b : Byte) : (s.writePhys a b).mstatus = s.mstatus := by
  unfold State.writePhys; repeat (first | rfl | split)
@[simp] theorem State.writePhys_m (s : State) (a : Nat) (b : Byte) : (s.writePhys a b).m = s.m := by
  unfold State.writePhys; repeat (first | rfl | split)
@[simp] theorem State.writePhys_pmpcfg (s : State) (a : Nat) (b : Byte) : (s.writePhys a b).pmpcfg = s.pmpcfg := by
  unfold State.writePhys; repeat (first | rfl | split)
@[simp] theorem State.writePhys_pmpaddr (s : State) (a : Nat) (b : Byte) : (s.writePhys a b).pmpaddr = s.pmpaddr := by
  unfold State.writePhys; repeat (first | rfl | split)
@[simp] theorem State.writePhys_s (s : State) (a : Nat) (b : Byte) : (s.writePhys a b).s = s.s := by
  unfold State.writePhys; repeat (first | rfl | split)
@[simp] theorem State.writePhys_h (s : State) (a : Nat) (b : Byte) : (s.writePhys a b).h = s.h := by
  unfold State.writePhys; repeat (first | rfl | split)
@[simp] theorem State.writePhys_vs (s : State) (a : Nat) (b : Byte) : (s.writePhys a b).vs = s.vs := by
  unfold State.writePhys; repeat (first | rfl | split)
@[simp] theorem State.writePhys_lines (s : State) (a : Nat) (b : Byte) : (s.writePhys a b).lines = s.lines := by
  unfold State.writePhys; repeat (first | rfl | split)
@[simp] theorem State.writePhys_reservation (s : State) (a : Nat) (b : Byte) : (s.writePhys a b).reservation = s.reservation := by
  unfold State.writePhys; repeat (first | rfl | split)
@[simp] theorem State.writePhys_stalled (s : State) (a : Nat) (b : Byte) : (s.writePhys a b).stalled = s.stalled := by
  unfold State.writePhys; repeat (first | rfl | split)
@[simp] theorem State.writePhys_tc (s : State) (a : Nat) (b : Byte) : (s.writePhys a b).tc = s.tc := by
  unfold State.writePhys; repeat (first | rfl | split)
@[simp] theorem State.writePhys_pmpStale (s : State) (a : Nat) (b : Byte) : (s.writePhys a b).pmpStale = s.pmpStale := by
  unfold State.writePhys; repeat (first | rfl | split)
@[simp] theorem State.writePhys_pmpStaleG (s : State) (a : Nat) (b : Byte) : (s.writePhys a b).pmpStaleG = s.pmpStaleG := by
  unfold State.writePhys; repeat (first | rfl | split)
@[simp] theorem State.writePhys_env (s : State) (a : Nat) (b : Byte) : (s.writePhys a b).env = s.env := by
  unfold State.writePhys; repeat (first | rfl | split)
@[simp] theorem State.writePhys_draws (s : State) (a : Nat) (b : Byte) : (s.writePhys a b).draws = s.draws := by
  unfold State.writePhys; repeat (first | rfl | split)

@[simp] theorem State.writeBytes_cfg (s : State) (a : Nat) (l : List Byte) : (s.writeBytes a l).cfg = s.cfg := by
  induction l generalizing s a with
  | nil => rfl
  | cons b t ih => simp [State.writeBytes, ih]
@[simp] theorem State.writeBytes_x (s : State) (a : Nat) (l : List Byte) : (s.writeBytes a l).x = s.x := by
  induction l generalizing s a with
  | nil => rfl
  | cons b t ih => simp [State.writeBytes, ih]
@[simp] theorem State.writeBytes_pc (s : State) (a : Nat) (l : List Byte) : (s.writeBytes a l).pc = s.pc := by
  induction l generalizing s a with
  | nil => rfl
  | cons b t ih => simp [State.writeBytes, ih]
@[simp] theorem State.writeBytes_priv (s : State) (a : Nat) (l : List Byte) : (s.writeBytes a l).priv = s.priv := by
  induction l generalizing s a with
  | nil => rfl
  | cons b t ih => simp [State.writeBytes, ih]
@[simp] theorem State.writeBytes_virt (s : State) (a : Nat) (l : List Byte) : (s.writeBytes a l).virt = s.virt := by
  induction l generalizing s a with
  | nil => rfl
  | cons b t ih => simp [State.writeBytes, ih]
@[simp] theorem State.writeBytes_mxl (s : State) (a : Nat) (l : List Byte) : (s.writeBytes a l).mxl = s.mxl := by
  induction l generalizing s a with
  | nil => rfl
  | cons b t ih => simp [State.writeBytes, ih]
@[simp] theorem State.writeBytes_ext (s : State) (a : Nat) (l : List Byte) : (s.writeBytes a l).ext = s.ext := by
  induction l generalizing s a with
  | nil => rfl
  | cons b t ih => simp [State.writeBytes, ih]
@[simp] theorem State.writeBytes_mstatus (s : State) (a : Nat) (l : List Byte) : (s.writeBytes a l).mstatus = s.mstatus := by
  induction l generalizing s a with
  | nil => rfl
  | cons b t ih => simp [State.writeBytes, ih]
@[simp] theorem State.writeBytes_m (s : State) (a : Nat) (l : List Byte) : (s.writeBytes a l).m = s.m := by
  induction l generalizing s a with
  | nil => rfl
  | cons b t ih => simp [State.writeBytes, ih]
@[simp] theorem State.writeBytes_pmpcfg (s : State) (a : Nat) (l : List Byte) : (s.writeBytes a l).pmpcfg = s.pmpcfg := by
  induction l generalizing s a with
  | nil => rfl
  | cons b t ih => simp [State.writeBytes, ih]
@[simp] theorem State.writeBytes_pmpaddr (s : State) (a : Nat) (l : List Byte) : (s.writeBytes a l).pmpaddr = s.pmpaddr := by
  induction l generalizing s a with
  | nil => rfl
  | cons b t ih => simp [State.writeBytes, ih]
@[simp] theorem State.writeBytes_s (s : State) (a : Nat) (l : List Byte) : (s.writeBytes a l).s = s.s := by
  induction l generalizing s a with
  | nil => rfl
  | cons b t ih => simp [State.writeBytes, ih]
@[simp] theorem State.writeBytes_h (s : State) (a : Nat) (l : List Byte) : (s.writeBytes a l).h = s.h := by
  induction l generalizing s a with
  | nil => rfl
  | cons b t ih => simp [State.writeBytes, ih]
@[simp] theorem State.writeBytes_vs (s : State) (a : Nat) (l : List Byte) : (s.writeBytes a l).vs = s.vs := by
  induction l generalizing s a with
  | nil => rfl
  | cons b t ih => simp [State.writeBytes, ih]
@[simp] theorem State.writeBytes_lines (s : State) (a : Nat) (l : List Byte) : (s.writeBytes a l).lines = s.lines := by
  induction l generalizing s a with
  | nil => rfl
  | cons b t ih => simp [State.writeBytes, ih]
@[simp] theorem State.writeBytes_reservation (s : State) (a : Nat) (l : List Byte) : (s.writeBytes a l).reservation = s.reservation := by
  induction l generalizing s a with
  | nil => rfl
  | cons b t ih => simp [State.writeBytes, ih]
@[simp] theorem State.writeBytes_stalled (s : State) (a : Nat) (l : List Byte) : (s.writeBytes a l).stalled = s.stalled := by
  induction l generalizing s a with
  | nil => rfl
  | cons b t ih => simp [State.writeBytes, ih]
@[simp] theorem State.writeBytes_tc (s : State) (a : Nat) (l : List Byte) : (s.writeBytes a l).tc = s.tc := by
  induction l generalizing s a with
  | nil => rfl
  | cons b t ih => simp [State.writeBytes, ih]
@[simp] theorem State.writeBytes_pmpStale (s : State) (a : Nat) (l : List Byte) : (s.writeBytes a l).pmpStale = s.pmpStale := by
  induction l generalizing s a with
  | nil => rfl
  | cons b t ih => simp [State.writeBytes, ih]
@[simp] theorem State.writeBytes_pmpStaleG (s : State) (a : Nat) (l : List Byte) : (s.writeBytes a l).pmpStaleG = s.pmpStaleG := by
  induction l generalizing s a with
  | nil => rfl
  | cons b t ih => simp [State.writeBytes, ih]
@[simp] theorem State.writeBytes_env (s : State) (a : Nat) (l : List Byte) : (s.writeBytes a l).env = s.env := by
  induction l generalizing s a with
  | nil => rfl
  | cons b t ih => simp [State.writeBytes, ih]
@[simp] theorem State.writeBytes_draws (s : State) (a : Nat) (l : List Byte) : (s.writeBytes a l).draws = s.draws := by
  induction l generalizing s a with
  | nil => rfl
  | cons b t ih => simp [State.writeBytes, ih]

@[simp] theorem State.writePhysN_cfg (s : State) (big : Bool) (a n : Nat) (v : Word) : (s.writePhysN big a n v).cfg = s.cfg := by
  simp [State.writePhysN]
@[simp] theorem State.writePhysN_x (s : State) (big : Bool) (a n : Nat) (v : Word) : (s.writePhysN big a n v).x = s.x := by
  simp [State.writePhysN]
@[simp] theorem State.writePhysN_pc (s : State) (big : Bool) (a n : Nat) (v : Word) : (s.writePhysN big a n v).pc = s.pc := by
  simp [State.writePhysN]
@[simp] theorem State.writePhysN_priv (s : State) (big : Bool) (a n : Nat) (v : Word) : (s.writePhysN big a n v).priv = s.priv := by
  simp [State.writePhysN]
@[simp] theorem State.writePhysN_virt (s : State) (big : Bool) (a n : Nat) (v : Word) : (s.writePhysN big a n v).virt = s.virt := by
  simp [State.writePhysN]
@[simp] theorem State.writePhysN_mxl (s : State) (big : Bool) (a n : Nat) (v : Word) : (s.writePhysN big a n v).mxl = s.mxl := by
  simp [State.writePhysN]
@[simp] theorem State.writePhysN_ext (s : State) (big : Bool) (a n : Nat) (v : Word) : (s.writePhysN big a n v).ext = s.ext := by
  simp [State.writePhysN]
@[simp] theorem State.writePhysN_mstatus (s : State) (big : Bool) (a n : Nat) (v : Word) : (s.writePhysN big a n v).mstatus = s.mstatus := by
  simp [State.writePhysN]
@[simp] theorem State.writePhysN_m (s : State) (big : Bool) (a n : Nat) (v : Word) : (s.writePhysN big a n v).m = s.m := by
  simp [State.writePhysN]
@[simp] theorem State.writePhysN_pmpcfg (s : State) (big : Bool) (a n : Nat) (v : Word) : (s.writePhysN big a n v).pmpcfg = s.pmpcfg := by
  simp [State.writePhysN]
@[simp] theorem State.writePhysN_pmpaddr (s : State) (big : Bool) (a n : Nat) (v : Word) : (s.writePhysN big a n v).pmpaddr = s.pmpaddr := by
  simp [State.writePhysN]
@[simp] theorem State.writePhysN_s (s : State) (big : Bool) (a n : Nat) (v : Word) : (s.writePhysN big a n v).s = s.s := by
  simp [State.writePhysN]
@[simp] theorem State.writePhysN_h (s : State) (big : Bool) (a n : Nat) (v : Word) : (s.writePhysN big a n v).h = s.h := by
  simp [State.writePhysN]
@[simp] theorem State.writePhysN_vs (s : State) (big : Bool) (a n : Nat) (v : Word) : (s.writePhysN big a n v).vs = s.vs := by
  simp [State.writePhysN]
@[simp] theorem State.writePhysN_lines (s : State) (big : Bool) (a n : Nat) (v : Word) : (s.writePhysN big a n v).lines = s.lines := by
  simp [State.writePhysN]
@[simp] theorem State.writePhysN_reservation (s : State) (big : Bool) (a n : Nat) (v : Word) : (s.writePhysN big a n v).reservation = s.reservation := by
  simp [State.writePhysN]
@[simp] theorem State.writePhysN_stalled (s : State) (big : Bool) (a n : Nat) (v : Word) : (s.writePhysN big a n v).stalled = s.stalled := by
  simp [State.writePhysN]
@[simp] theorem State.writePhysN_tc (s : State) (big : Bool) (a n : Nat) (v : Word) : (s.writePhysN big a n v).tc = s.tc := by
  simp [State.writePhysN]
@[simp] theorem State.writePhysN_pmpStale (s : State) (big : Bool) (a n : Nat) (v : Word) : (s.writePhysN big a n v).pmpStale = s.pmpStale := by
  simp [State.writePhysN]
@[simp] theorem State.writePhysN_pmpStaleG (s : State) (big : Bool) (a n : Nat) (v : Word) : (s.writePhysN big a n v).pmpStaleG = s.pmpStaleG := by
  simp [State.writePhysN]
@[simp] theorem State.writePhysN_env (s : State) (big : Bool) (a n : Nat) (v : Word) : (s.writePhysN big a n v).env = s.env := by
  simp [State.writePhysN]
@[simp] theorem State.writePhysN_draws (s : State) (big : Bool) (a n : Nat) (v : Word) : (s.writePhysN big a n v).draws = s.draws := by
  simp [State.writePhysN]

@[simp] theorem State.writeAt_cfg (s : State) (pas : List Nat) (l : List Byte) : (s.writeAt pas l).cfg = s.cfg := by
  induction pas generalizing s l with
  | nil => cases l <;> rfl
  | cons p t ih => cases l <;> simp [State.writeAt, ih]
@[simp] theorem State.writeAt_x (s : State) (pas : List Nat) (l : List Byte) : (s.writeAt pas l).x = s.x := by
  induction pas generalizing s l with
  | nil => cases l <;> rfl
  | cons p t ih => cases l <;> simp [State.writeAt, ih]
@[simp] theorem State.writeAt_pc (s : State) (pas : List Nat) (l : List Byte) : (s.writeAt pas l).pc = s.pc := by
  induction pas generalizing s l with
  | nil => cases l <;> rfl
  | cons p t ih => cases l <;> simp [State.writeAt, ih]
@[simp] theorem State.writeAt_priv (s : State) (pas : List Nat) (l : List Byte) : (s.writeAt pas l).priv = s.priv := by
  induction pas generalizing s l with
  | nil => cases l <;> rfl
  | cons p t ih => cases l <;> simp [State.writeAt, ih]
@[simp] theorem State.writeAt_virt (s : State) (pas : List Nat) (l : List Byte) : (s.writeAt pas l).virt = s.virt := by
  induction pas generalizing s l with
  | nil => cases l <;> rfl
  | cons p t ih => cases l <;> simp [State.writeAt, ih]
@[simp] theorem State.writeAt_mxl (s : State) (pas : List Nat) (l : List Byte) : (s.writeAt pas l).mxl = s.mxl := by
  induction pas generalizing s l with
  | nil => cases l <;> rfl
  | cons p t ih => cases l <;> simp [State.writeAt, ih]
@[simp] theorem State.writeAt_ext (s : State) (pas : List Nat) (l : List Byte) : (s.writeAt pas l).ext = s.ext := by
  induction pas generalizing s l with
  | nil => cases l <;> rfl
  | cons p t ih => cases l <;> simp [State.writeAt, ih]
@[simp] theorem State.writeAt_mstatus (s : State) (pas : List Nat) (l : List Byte) : (s.writeAt pas l).mstatus = s.mstatus := by
  induction pas generalizing s l with
  | nil => cases l <;> rfl
  | cons p t ih => cases l <;> simp [State.writeAt, ih]
@[simp] theorem State.writeAt_m (s : State) (pas : List Nat) (l : List Byte) : (s.writeAt pas l).m = s.m := by
  induction pas generalizing s l with
  | nil => cases l <;> rfl
  | cons p t ih => cases l <;> simp [State.writeAt, ih]
@[simp] theorem State.writeAt_pmpcfg (s : State) (pas : List Nat) (l : List Byte) : (s.writeAt pas l).pmpcfg = s.pmpcfg := by
  induction pas generalizing s l with
  | nil => cases l <;> rfl
  | cons p t ih => cases l <;> simp [State.writeAt, ih]
@[simp] theorem State.writeAt_pmpaddr (s : State) (pas : List Nat) (l : List Byte) : (s.writeAt pas l).pmpaddr = s.pmpaddr := by
  induction pas generalizing s l with
  | nil => cases l <;> rfl
  | cons p t ih => cases l <;> simp [State.writeAt, ih]
@[simp] theorem State.writeAt_s (s : State) (pas : List Nat) (l : List Byte) : (s.writeAt pas l).s = s.s := by
  induction pas generalizing s l with
  | nil => cases l <;> rfl
  | cons p t ih => cases l <;> simp [State.writeAt, ih]
@[simp] theorem State.writeAt_h (s : State) (pas : List Nat) (l : List Byte) : (s.writeAt pas l).h = s.h := by
  induction pas generalizing s l with
  | nil => cases l <;> rfl
  | cons p t ih => cases l <;> simp [State.writeAt, ih]
@[simp] theorem State.writeAt_vs (s : State) (pas : List Nat) (l : List Byte) : (s.writeAt pas l).vs = s.vs := by
  induction pas generalizing s l with
  | nil => cases l <;> rfl
  | cons p t ih => cases l <;> simp [State.writeAt, ih]
@[simp] theorem State.writeAt_lines (s : State) (pas : List Nat) (l : List Byte) : (s.writeAt pas l).lines = s.lines := by
  induction pas generalizing s l with
  | nil => cases l <;> rfl
  | cons p t ih => cases l <;> simp [State.writeAt, ih]
@[simp] theorem State.writeAt_reservation (s : State) (pas : List Nat) (l : List Byte) : (s.writeAt pas l).reservation = s.reservation := by
  induction pas generalizing s l with
  | nil => cases l <;> rfl
  | cons p t ih => cases l <;> simp [State.writeAt, ih]
@[simp] theorem State.writeAt_stalled (s : State) (pas : List Nat) (l : List Byte) : (s.writeAt pas l).stalled = s.stalled := by
  induction pas generalizing s l with
  | nil => cases l <;> rfl
  | cons p t ih => cases l <;> simp [State.writeAt, ih]
@[simp] theorem State.writeAt_tc (s : State) (pas : List Nat) (l : List Byte) : (s.writeAt pas l).tc = s.tc := by
  induction pas generalizing s l with
  | nil => cases l <;> rfl
  | cons p t ih => cases l <;> simp [State.writeAt, ih]
@[simp] theorem State.writeAt_pmpStale (s : State) (pas : List Nat) (l : List Byte) : (s.writeAt pas l).pmpStale = s.pmpStale := by
  induction pas generalizing s l with
  | nil => cases l <;> rfl
  | cons p t ih => cases l <;> simp [State.writeAt, ih]
@[simp] theorem State.writeAt_pmpStaleG (s : State) (pas : List Nat) (l : List Byte) : (s.writeAt pas l).pmpStaleG = s.pmpStaleG := by
  induction pas generalizing s l with
  | nil => cases l <;> rfl
  | cons p t ih => cases l <;> simp [State.writeAt, ih]
@[simp] theorem State.writeAt_env (s : State) (pas : List Nat) (l : List Byte) : (s.writeAt pas l).env = s.env := by
  induction pas generalizing s l with
  | nil => cases l <;> rfl
  | cons p t ih => cases l <;> simp [State.writeAt, ih]
@[simp] theorem State.writeAt_draws (s : State) (pas : List Nat) (l : List Byte) : (s.writeAt pas l).draws = s.draws := by
  induction pas generalizing s l with
  | nil => cases l <;> rfl
  | cons p t ih => cases l <;> simp [State.writeAt, ih]

/-! ## Trap entry and return -/

@[simp] theorem State.enterM_cfg (s : State) (t : TrapInfo) : (s.enterM t).cfg = s.cfg := rfl
@[simp] theorem State.enterM_x (s : State) (t : TrapInfo) : (s.enterM t).x = s.x := rfl
@[simp] theorem State.enterM_mxl (s : State) (t : TrapInfo) : (s.enterM t).mxl = s.mxl := rfl
@[simp] theorem State.enterM_ext (s : State) (t : TrapInfo) : (s.enterM t).ext = s.ext := rfl
@[simp] theorem State.enterM_pmpcfg (s : State) (t : TrapInfo) : (s.enterM t).pmpcfg = s.pmpcfg := rfl
@[simp] theorem State.enterM_pmpaddr (s : State) (t : TrapInfo) : (s.enterM t).pmpaddr = s.pmpaddr := rfl
@[simp] theorem State.enterM_s (s : State) (t : TrapInfo) : (s.enterM t).s = s.s := rfl
@[simp] theorem State.enterM_h (s : State) (t : TrapInfo) : (s.enterM t).h = s.h := rfl
@[simp] theorem State.enterM_vs (s : State) (t : TrapInfo) : (s.enterM t).vs = s.vs := rfl
@[simp] theorem State.enterM_lines (s : State) (t : TrapInfo) : (s.enterM t).lines = s.lines := rfl
@[simp] theorem State.enterM_mtime (s : State) (t : TrapInfo) : (s.enterM t).mtime = s.mtime := rfl
@[simp] theorem State.enterM_mtimecmp (s : State) (t : TrapInfo) : (s.enterM t).mtimecmp = s.mtimecmp := rfl
@[simp] theorem State.enterM_msip (s : State) (t : TrapInfo) : (s.enterM t).msip = s.msip := rfl
@[simp] theorem State.enterM_reservation (s : State) (t : TrapInfo) : (s.enterM t).reservation = s.reservation := rfl
@[simp] theorem State.enterM_stalled (s : State) (t : TrapInfo) : (s.enterM t).stalled = s.stalled := rfl
@[simp] theorem State.enterM_tc (s : State) (t : TrapInfo) : (s.enterM t).tc = s.tc := rfl
@[simp] theorem State.enterM_pmpStale (s : State) (t : TrapInfo) : (s.enterM t).pmpStale = s.pmpStale := rfl
@[simp] theorem State.enterM_pmpStaleG (s : State) (t : TrapInfo) : (s.enterM t).pmpStaleG = s.pmpStaleG := rfl
@[simp] theorem State.enterM_mem (s : State) (t : TrapInfo) : (s.enterM t).mem = s.mem := rfl
@[simp] theorem State.enterM_env (s : State) (t : TrapInfo) : (s.enterM t).env = s.env := rfl
@[simp] theorem State.enterM_draws (s : State) (t : TrapInfo) : (s.enterM t).draws = s.draws := rfl

@[simp] theorem State.enterS_cfg (s : State) (t : TrapInfo) : (s.enterS t).cfg = s.cfg := rfl
@[simp] theorem State.enterS_x (s : State) (t : TrapInfo) : (s.enterS t).x = s.x := rfl
@[simp] theorem State.enterS_mxl (s : State) (t : TrapInfo) : (s.enterS t).mxl = s.mxl := rfl
@[simp] theorem State.enterS_ext (s : State) (t : TrapInfo) : (s.enterS t).ext = s.ext := rfl
@[simp] theorem State.enterS_m (s : State) (t : TrapInfo) : (s.enterS t).m = s.m := rfl
@[simp] theorem State.enterS_pmpcfg (s : State) (t : TrapInfo) : (s.enterS t).pmpcfg = s.pmpcfg := rfl
@[simp] theorem State.enterS_pmpaddr (s : State) (t : TrapInfo) : (s.enterS t).pmpaddr = s.pmpaddr := rfl
@[simp] theorem State.enterS_vs (s : State) (t : TrapInfo) : (s.enterS t).vs = s.vs := rfl
@[simp] theorem State.enterS_lines (s : State) (t : TrapInfo) : (s.enterS t).lines = s.lines := rfl
@[simp] theorem State.enterS_mtime (s : State) (t : TrapInfo) : (s.enterS t).mtime = s.mtime := rfl
@[simp] theorem State.enterS_mtimecmp (s : State) (t : TrapInfo) : (s.enterS t).mtimecmp = s.mtimecmp := rfl
@[simp] theorem State.enterS_msip (s : State) (t : TrapInfo) : (s.enterS t).msip = s.msip := rfl
@[simp] theorem State.enterS_reservation (s : State) (t : TrapInfo) : (s.enterS t).reservation = s.reservation := rfl
@[simp] theorem State.enterS_stalled (s : State) (t : TrapInfo) : (s.enterS t).stalled = s.stalled := rfl
@[simp] theorem State.enterS_tc (s : State) (t : TrapInfo) : (s.enterS t).tc = s.tc := rfl
@[simp] theorem State.enterS_pmpStale (s : State) (t : TrapInfo) : (s.enterS t).pmpStale = s.pmpStale := rfl
@[simp] theorem State.enterS_pmpStaleG (s : State) (t : TrapInfo) : (s.enterS t).pmpStaleG = s.pmpStaleG := rfl
@[simp] theorem State.enterS_mem (s : State) (t : TrapInfo) : (s.enterS t).mem = s.mem := rfl
@[simp] theorem State.enterS_env (s : State) (t : TrapInfo) : (s.enterS t).env = s.env := rfl
@[simp] theorem State.enterS_draws (s : State) (t : TrapInfo) : (s.enterS t).draws = s.draws := rfl

@[simp] theorem State.enterVS_cfg (s : State) (t : TrapInfo) : (s.enterVS t).cfg = s.cfg := rfl
@[simp] theorem State.enterVS_x (s : State) (t : TrapInfo) : (s.enterVS t).x = s.x := rfl
@[simp] theorem State.enterVS_mxl (s : State) (t : TrapInfo) : (s.enterVS t).mxl = s.mxl := rfl
@[simp] theorem State.enterVS_ext (s : State) (t : TrapInfo) : (s.enterVS t).ext = s.ext := rfl
@[simp] theorem State.enterVS_mstatus (s : State) (t : TrapInfo) : (s.enterVS t).mstatus = s.mstatus := rfl
@[simp] theorem State.enterVS_m (s : State) (t : TrapInfo) : (s.enterVS t).m = s.m := rfl
@[simp] theorem State.enterVS_pmpcfg (s : State) (t : TrapInfo) : (s.enterVS t).pmpcfg = s.pmpcfg := rfl
@[simp] theorem State.enterVS_pmpaddr (s : State) (t : TrapInfo) : (s.enterVS t).pmpaddr = s.pmpaddr := rfl
@[simp] theorem State.enterVS_s (s : State) (t : TrapInfo) : (s.enterVS t).s = s.s := rfl
@[simp] theorem State.enterVS_h (s : State) (t : TrapInfo) : (s.enterVS t).h = s.h := rfl
@[simp] theorem State.enterVS_lines (s : State) (t : TrapInfo) : (s.enterVS t).lines = s.lines := rfl
@[simp] theorem State.enterVS_mtime (s : State) (t : TrapInfo) : (s.enterVS t).mtime = s.mtime := rfl
@[simp] theorem State.enterVS_mtimecmp (s : State) (t : TrapInfo) : (s.enterVS t).mtimecmp = s.mtimecmp := rfl
@[simp] theorem State.enterVS_msip (s : State) (t : TrapInfo) : (s.enterVS t).msip = s.msip := rfl
@[simp] theorem State.enterVS_reservation (s : State) (t : TrapInfo) : (s.enterVS t).reservation = s.reservation := rfl
@[simp] theorem State.enterVS_stalled (s : State) (t : TrapInfo) : (s.enterVS t).stalled = s.stalled := rfl
@[simp] theorem State.enterVS_tc (s : State) (t : TrapInfo) : (s.enterVS t).tc = s.tc := rfl
@[simp] theorem State.enterVS_pmpStale (s : State) (t : TrapInfo) : (s.enterVS t).pmpStale = s.pmpStale := rfl
@[simp] theorem State.enterVS_pmpStaleG (s : State) (t : TrapInfo) : (s.enterVS t).pmpStaleG = s.pmpStaleG := rfl
@[simp] theorem State.enterVS_mem (s : State) (t : TrapInfo) : (s.enterVS t).mem = s.mem := rfl
@[simp] theorem State.enterVS_env (s : State) (t : TrapInfo) : (s.enterVS t).env = s.env := rfl
@[simp] theorem State.enterVS_draws (s : State) (t : TrapInfo) : (s.enterVS t).draws = s.draws := rfl

@[simp] theorem State.enter_cfg (s : State) (d : Dest) (t : TrapInfo) : (s.enter d t).cfg = s.cfg := by
  cases d <;> rfl
@[simp] theorem State.enter_x (s : State) (d : Dest) (t : TrapInfo) : (s.enter d t).x = s.x := by
  cases d <;> rfl
@[simp] theorem State.enter_mxl (s : State) (d : Dest) (t : TrapInfo) : (s.enter d t).mxl = s.mxl := by
  cases d <;> rfl
@[simp] theorem State.enter_ext (s : State) (d : Dest) (t : TrapInfo) : (s.enter d t).ext = s.ext := by
  cases d <;> rfl
@[simp] theorem State.enter_pmpcfg (s : State) (d : Dest) (t : TrapInfo) : (s.enter d t).pmpcfg = s.pmpcfg := by
  cases d <;> rfl
@[simp] theorem State.enter_pmpaddr (s : State) (d : Dest) (t : TrapInfo) : (s.enter d t).pmpaddr = s.pmpaddr := by
  cases d <;> rfl
@[simp] theorem State.enter_lines (s : State) (d : Dest) (t : TrapInfo) : (s.enter d t).lines = s.lines := by
  cases d <;> rfl
@[simp] theorem State.enter_mtime (s : State) (d : Dest) (t : TrapInfo) : (s.enter d t).mtime = s.mtime := by
  cases d <;> rfl
@[simp] theorem State.enter_mtimecmp (s : State) (d : Dest) (t : TrapInfo) : (s.enter d t).mtimecmp = s.mtimecmp := by
  cases d <;> rfl
@[simp] theorem State.enter_msip (s : State) (d : Dest) (t : TrapInfo) : (s.enter d t).msip = s.msip := by
  cases d <;> rfl
@[simp] theorem State.enter_reservation (s : State) (d : Dest) (t : TrapInfo) : (s.enter d t).reservation = s.reservation := by
  cases d <;> rfl
@[simp] theorem State.enter_stalled (s : State) (d : Dest) (t : TrapInfo) : (s.enter d t).stalled = s.stalled := by
  cases d <;> rfl
@[simp] theorem State.enter_tc (s : State) (d : Dest) (t : TrapInfo) : (s.enter d t).tc = s.tc := by
  cases d <;> rfl
@[simp] theorem State.enter_pmpStale (s : State) (d : Dest) (t : TrapInfo) : (s.enter d t).pmpStale = s.pmpStale := by
  cases d <;> rfl
@[simp] theorem State.enter_pmpStaleG (s : State) (d : Dest) (t : TrapInfo) : (s.enter d t).pmpStaleG = s.pmpStaleG := by
  cases d <;> rfl
@[simp] theorem State.enter_mem (s : State) (d : Dest) (t : TrapInfo) : (s.enter d t).mem = s.mem := by
  cases d <;> rfl
@[simp] theorem State.enter_env (s : State) (d : Dest) (t : TrapInfo) : (s.enter d t).env = s.env := by
  cases d <;> rfl
@[simp] theorem State.enter_draws (s : State) (d : Dest) (t : TrapInfo) : (s.enter d t).draws = s.draws := by
  cases d <;> rfl

@[simp] theorem State.takeException_cfg (s : State) (w : BitVec 32) (e : Excn) : (s.takeException w e).cfg = s.cfg := by
  simp [State.takeException]
@[simp] theorem State.takeException_x (s : State) (w : BitVec 32) (e : Excn) : (s.takeException w e).x = s.x := by
  simp [State.takeException]
@[simp] theorem State.takeException_mxl (s : State) (w : BitVec 32) (e : Excn) : (s.takeException w e).mxl = s.mxl := by
  simp [State.takeException]
@[simp] theorem State.takeException_ext (s : State) (w : BitVec 32) (e : Excn) : (s.takeException w e).ext = s.ext := by
  simp [State.takeException]
@[simp] theorem State.takeException_pmpcfg (s : State) (w : BitVec 32) (e : Excn) : (s.takeException w e).pmpcfg = s.pmpcfg := by
  simp [State.takeException]
@[simp] theorem State.takeException_pmpaddr (s : State) (w : BitVec 32) (e : Excn) : (s.takeException w e).pmpaddr = s.pmpaddr := by
  simp [State.takeException]
@[simp] theorem State.takeException_lines (s : State) (w : BitVec 32) (e : Excn) : (s.takeException w e).lines = s.lines := by
  simp [State.takeException]
@[simp] theorem State.takeException_mtime (s : State) (w : BitVec 32) (e : Excn) : (s.takeException w e).mtime = s.mtime := by
  simp [State.takeException]
@[simp] theorem State.takeException_mtimecmp (s : State) (w : BitVec 32) (e : Excn) : (s.takeException w e).mtimecmp = s.mtimecmp := by
  simp [State.takeException]
@[simp] theorem State.takeException_msip (s : State) (w : BitVec 32) (e : Excn) : (s.takeException w e).msip = s.msip := by
  simp [State.takeException]
@[simp] theorem State.takeException_reservation (s : State) (w : BitVec 32) (e : Excn) : (s.takeException w e).reservation = s.reservation := by
  simp [State.takeException]
@[simp] theorem State.takeException_stalled (s : State) (w : BitVec 32) (e : Excn) : (s.takeException w e).stalled = s.stalled := by
  simp [State.takeException]
@[simp] theorem State.takeException_tc (s : State) (w : BitVec 32) (e : Excn) : (s.takeException w e).tc = s.tc := by
  simp [State.takeException]
@[simp] theorem State.takeException_pmpStale (s : State) (w : BitVec 32) (e : Excn) : (s.takeException w e).pmpStale = s.pmpStale := by
  simp [State.takeException]
@[simp] theorem State.takeException_pmpStaleG (s : State) (w : BitVec 32) (e : Excn) : (s.takeException w e).pmpStaleG = s.pmpStaleG := by
  simp [State.takeException]
@[simp] theorem State.takeException_mem (s : State) (w : BitVec 32) (e : Excn) : (s.takeException w e).mem = s.mem := by
  simp [State.takeException]
@[simp] theorem State.takeException_env (s : State) (w : BitVec 32) (e : Excn) : (s.takeException w e).env = s.env := by
  simp [State.takeException]
@[simp] theorem State.takeException_draws (s : State) (w : BitVec 32) (e : Excn) : (s.takeException w e).draws = s.draws := by
  simp [State.takeException]

@[simp] theorem State.takeIllegal_cfg (s : State) (w : BitVec 32) : (s.takeIllegal w).cfg = s.cfg := by
  simp [State.takeIllegal]
@[simp] theorem State.takeIllegal_x (s : State) (w : BitVec 32) : (s.takeIllegal w).x = s.x := by
  simp [State.takeIllegal]
@[simp] theorem State.takeIllegal_mxl (s : State) (w : BitVec 32) : (s.takeIllegal w).mxl = s.mxl := by
  simp [State.takeIllegal]
@[simp] theorem State.takeIllegal_ext (s : State) (w : BitVec 32) : (s.takeIllegal w).ext = s.ext := by
  simp [State.takeIllegal]
@[simp] theorem State.takeIllegal_pmpcfg (s : State) (w : BitVec 32) : (s.takeIllegal w).pmpcfg = s.pmpcfg := by
  simp [State.takeIllegal]
@[simp] theorem State.takeIllegal_pmpaddr (s : State) (w : BitVec 32) : (s.takeIllegal w).pmpaddr = s.pmpaddr := by
  simp [State.takeIllegal]
@[simp] theorem State.takeIllegal_lines (s : State) (w : BitVec 32) : (s.takeIllegal w).lines = s.lines := by
  simp [State.takeIllegal]
@[simp] theorem State.takeIllegal_mtime (s : State) (w : BitVec 32) : (s.takeIllegal w).mtime = s.mtime := by
  simp [State.takeIllegal]
@[simp] theorem State.takeIllegal_mtimecmp (s : State) (w : BitVec 32) : (s.takeIllegal w).mtimecmp = s.mtimecmp := by
  simp [State.takeIllegal]
@[simp] theorem State.takeIllegal_msip (s : State) (w : BitVec 32) : (s.takeIllegal w).msip = s.msip := by
  simp [State.takeIllegal]
@[simp] theorem State.takeIllegal_reservation (s : State) (w : BitVec 32) : (s.takeIllegal w).reservation = s.reservation := by
  simp [State.takeIllegal]
@[simp] theorem State.takeIllegal_stalled (s : State) (w : BitVec 32) : (s.takeIllegal w).stalled = s.stalled := by
  simp [State.takeIllegal]
@[simp] theorem State.takeIllegal_tc (s : State) (w : BitVec 32) : (s.takeIllegal w).tc = s.tc := by
  simp [State.takeIllegal]
@[simp] theorem State.takeIllegal_pmpStale (s : State) (w : BitVec 32) : (s.takeIllegal w).pmpStale = s.pmpStale := by
  simp [State.takeIllegal]
@[simp] theorem State.takeIllegal_pmpStaleG (s : State) (w : BitVec 32) : (s.takeIllegal w).pmpStaleG = s.pmpStaleG := by
  simp [State.takeIllegal]
@[simp] theorem State.takeIllegal_mem (s : State) (w : BitVec 32) : (s.takeIllegal w).mem = s.mem := by
  simp [State.takeIllegal]
@[simp] theorem State.takeIllegal_env (s : State) (w : BitVec 32) : (s.takeIllegal w).env = s.env := by
  simp [State.takeIllegal]
@[simp] theorem State.takeIllegal_draws (s : State) (w : BitVec 32) : (s.takeIllegal w).draws = s.draws := by
  simp [State.takeIllegal]

@[simp] theorem State.takeVirtual_cfg (s : State) (w : BitVec 32) : (s.takeVirtual w).cfg = s.cfg := by
  simp [State.takeVirtual]
@[simp] theorem State.takeVirtual_x (s : State) (w : BitVec 32) : (s.takeVirtual w).x = s.x := by
  simp [State.takeVirtual]
@[simp] theorem State.takeVirtual_mxl (s : State) (w : BitVec 32) : (s.takeVirtual w).mxl = s.mxl := by
  simp [State.takeVirtual]
@[simp] theorem State.takeVirtual_ext (s : State) (w : BitVec 32) : (s.takeVirtual w).ext = s.ext := by
  simp [State.takeVirtual]
@[simp] theorem State.takeVirtual_pmpcfg (s : State) (w : BitVec 32) : (s.takeVirtual w).pmpcfg = s.pmpcfg := by
  simp [State.takeVirtual]
@[simp] theorem State.takeVirtual_pmpaddr (s : State) (w : BitVec 32) : (s.takeVirtual w).pmpaddr = s.pmpaddr := by
  simp [State.takeVirtual]
@[simp] theorem State.takeVirtual_lines (s : State) (w : BitVec 32) : (s.takeVirtual w).lines = s.lines := by
  simp [State.takeVirtual]
@[simp] theorem State.takeVirtual_mtime (s : State) (w : BitVec 32) : (s.takeVirtual w).mtime = s.mtime := by
  simp [State.takeVirtual]
@[simp] theorem State.takeVirtual_mtimecmp (s : State) (w : BitVec 32) : (s.takeVirtual w).mtimecmp = s.mtimecmp := by
  simp [State.takeVirtual]
@[simp] theorem State.takeVirtual_msip (s : State) (w : BitVec 32) : (s.takeVirtual w).msip = s.msip := by
  simp [State.takeVirtual]
@[simp] theorem State.takeVirtual_reservation (s : State) (w : BitVec 32) : (s.takeVirtual w).reservation = s.reservation := by
  simp [State.takeVirtual]
@[simp] theorem State.takeVirtual_stalled (s : State) (w : BitVec 32) : (s.takeVirtual w).stalled = s.stalled := by
  simp [State.takeVirtual]
@[simp] theorem State.takeVirtual_tc (s : State) (w : BitVec 32) : (s.takeVirtual w).tc = s.tc := by
  simp [State.takeVirtual]
@[simp] theorem State.takeVirtual_pmpStale (s : State) (w : BitVec 32) : (s.takeVirtual w).pmpStale = s.pmpStale := by
  simp [State.takeVirtual]
@[simp] theorem State.takeVirtual_pmpStaleG (s : State) (w : BitVec 32) : (s.takeVirtual w).pmpStaleG = s.pmpStaleG := by
  simp [State.takeVirtual]
@[simp] theorem State.takeVirtual_mem (s : State) (w : BitVec 32) : (s.takeVirtual w).mem = s.mem := by
  simp [State.takeVirtual]
@[simp] theorem State.takeVirtual_env (s : State) (w : BitVec 32) : (s.takeVirtual w).env = s.env := by
  simp [State.takeVirtual]
@[simp] theorem State.takeVirtual_draws (s : State) (w : BitVec 32) : (s.takeVirtual w).draws = s.draws := by
  simp [State.takeVirtual]

@[simp] theorem State.takeInterrupt_cfg (s : State) (d : Dest) (i : Nat) : (s.takeInterrupt d i).cfg = s.cfg := by
  simp [State.takeInterrupt]
@[simp] theorem State.takeInterrupt_x (s : State) (d : Dest) (i : Nat) : (s.takeInterrupt d i).x = s.x := by
  simp [State.takeInterrupt]
@[simp] theorem State.takeInterrupt_mxl (s : State) (d : Dest) (i : Nat) : (s.takeInterrupt d i).mxl = s.mxl := by
  simp [State.takeInterrupt]
@[simp] theorem State.takeInterrupt_ext (s : State) (d : Dest) (i : Nat) : (s.takeInterrupt d i).ext = s.ext := by
  simp [State.takeInterrupt]
@[simp] theorem State.takeInterrupt_pmpcfg (s : State) (d : Dest) (i : Nat) : (s.takeInterrupt d i).pmpcfg = s.pmpcfg := by
  simp [State.takeInterrupt]
@[simp] theorem State.takeInterrupt_pmpaddr (s : State) (d : Dest) (i : Nat) : (s.takeInterrupt d i).pmpaddr = s.pmpaddr := by
  simp [State.takeInterrupt]
@[simp] theorem State.takeInterrupt_lines (s : State) (d : Dest) (i : Nat) : (s.takeInterrupt d i).lines = s.lines := by
  simp [State.takeInterrupt]
@[simp] theorem State.takeInterrupt_mtime (s : State) (d : Dest) (i : Nat) : (s.takeInterrupt d i).mtime = s.mtime := by
  simp [State.takeInterrupt]
@[simp] theorem State.takeInterrupt_mtimecmp (s : State) (d : Dest) (i : Nat) : (s.takeInterrupt d i).mtimecmp = s.mtimecmp := by
  simp [State.takeInterrupt]
@[simp] theorem State.takeInterrupt_msip (s : State) (d : Dest) (i : Nat) : (s.takeInterrupt d i).msip = s.msip := by
  simp [State.takeInterrupt]
@[simp] theorem State.takeInterrupt_reservation (s : State) (d : Dest) (i : Nat) : (s.takeInterrupt d i).reservation = s.reservation := by
  simp [State.takeInterrupt]
@[simp] theorem State.takeInterrupt_stalled (s : State) (d : Dest) (i : Nat) : (s.takeInterrupt d i).stalled = s.stalled := by
  simp [State.takeInterrupt]
@[simp] theorem State.takeInterrupt_tc (s : State) (d : Dest) (i : Nat) : (s.takeInterrupt d i).tc = s.tc := by
  simp [State.takeInterrupt]
@[simp] theorem State.takeInterrupt_pmpStale (s : State) (d : Dest) (i : Nat) : (s.takeInterrupt d i).pmpStale = s.pmpStale := by
  simp [State.takeInterrupt]
@[simp] theorem State.takeInterrupt_pmpStaleG (s : State) (d : Dest) (i : Nat) : (s.takeInterrupt d i).pmpStaleG = s.pmpStaleG := by
  simp [State.takeInterrupt]
@[simp] theorem State.takeInterrupt_mem (s : State) (d : Dest) (i : Nat) : (s.takeInterrupt d i).mem = s.mem := by
  simp [State.takeInterrupt]
@[simp] theorem State.takeInterrupt_env (s : State) (d : Dest) (i : Nat) : (s.takeInterrupt d i).env = s.env := by
  simp [State.takeInterrupt]
@[simp] theorem State.takeInterrupt_draws (s : State) (d : Dest) (i : Nat) : (s.takeInterrupt d i).draws = s.draws := by
  simp [State.takeInterrupt]

@[simp] theorem State.freeReservation_cfg (s : State) : (s.freeReservation).cfg = s.cfg := rfl
@[simp] theorem State.freeReservation_x (s : State) : (s.freeReservation).x = s.x := rfl
@[simp] theorem State.freeReservation_pc (s : State) : (s.freeReservation).pc = s.pc := rfl
@[simp] theorem State.freeReservation_priv (s : State) : (s.freeReservation).priv = s.priv := rfl
@[simp] theorem State.freeReservation_virt (s : State) : (s.freeReservation).virt = s.virt := rfl
@[simp] theorem State.freeReservation_mxl (s : State) : (s.freeReservation).mxl = s.mxl := rfl
@[simp] theorem State.freeReservation_ext (s : State) : (s.freeReservation).ext = s.ext := rfl
@[simp] theorem State.freeReservation_mstatus (s : State) : (s.freeReservation).mstatus = s.mstatus := rfl
@[simp] theorem State.freeReservation_m (s : State) : (s.freeReservation).m = s.m := rfl
@[simp] theorem State.freeReservation_pmpcfg (s : State) : (s.freeReservation).pmpcfg = s.pmpcfg := rfl
@[simp] theorem State.freeReservation_pmpaddr (s : State) : (s.freeReservation).pmpaddr = s.pmpaddr := rfl
@[simp] theorem State.freeReservation_s (s : State) : (s.freeReservation).s = s.s := rfl
@[simp] theorem State.freeReservation_h (s : State) : (s.freeReservation).h = s.h := rfl
@[simp] theorem State.freeReservation_vs (s : State) : (s.freeReservation).vs = s.vs := rfl
@[simp] theorem State.freeReservation_lines (s : State) : (s.freeReservation).lines = s.lines := rfl
@[simp] theorem State.freeReservation_mtime (s : State) : (s.freeReservation).mtime = s.mtime := rfl
@[simp] theorem State.freeReservation_mtimecmp (s : State) : (s.freeReservation).mtimecmp = s.mtimecmp := rfl
@[simp] theorem State.freeReservation_msip (s : State) : (s.freeReservation).msip = s.msip := rfl
@[simp] theorem State.freeReservation_stalled (s : State) : (s.freeReservation).stalled = s.stalled := rfl
@[simp] theorem State.freeReservation_tc (s : State) : (s.freeReservation).tc = s.tc := rfl
@[simp] theorem State.freeReservation_pmpStale (s : State) : (s.freeReservation).pmpStale = s.pmpStale := rfl
@[simp] theorem State.freeReservation_pmpStaleG (s : State) : (s.freeReservation).pmpStaleG = s.pmpStaleG := rfl
@[simp] theorem State.freeReservation_mem (s : State) : (s.freeReservation).mem = s.mem := rfl
@[simp] theorem State.freeReservation_env (s : State) : (s.freeReservation).env = s.env := rfl

@[simp] theorem State.returnFromM_cfg (s : State) : (s.returnFromM).cfg = s.cfg := rfl
@[simp] theorem State.returnFromM_x (s : State) : (s.returnFromM).x = s.x := rfl
@[simp] theorem State.returnFromM_pc (s : State) : (s.returnFromM).pc = s.pc := rfl
@[simp] theorem State.returnFromM_mxl (s : State) : (s.returnFromM).mxl = s.mxl := rfl
@[simp] theorem State.returnFromM_ext (s : State) : (s.returnFromM).ext = s.ext := rfl
@[simp] theorem State.returnFromM_m (s : State) : (s.returnFromM).m = s.m := rfl
@[simp] theorem State.returnFromM_pmpcfg (s : State) : (s.returnFromM).pmpcfg = s.pmpcfg := rfl
@[simp] theorem State.returnFromM_pmpaddr (s : State) : (s.returnFromM).pmpaddr = s.pmpaddr := rfl
@[simp] theorem State.returnFromM_s (s : State) : (s.returnFromM).s = s.s := rfl
@[simp] theorem State.returnFromM_h (s : State) : (s.returnFromM).h = s.h := rfl
@[simp] theorem State.returnFromM_vs (s : State) : (s.returnFromM).vs = s.vs := rfl
@[simp] theorem State.returnFromM_lines (s : State) : (s.returnFromM).lines = s.lines := rfl
@[simp] theorem State.returnFromM_mtime (s : State) : (s.returnFromM).mtime = s.mtime := rfl
@[simp] theorem State.returnFromM_mtimecmp (s : State) : (s.returnFromM).mtimecmp = s.mtimecmp := rfl
@[simp] theorem State.returnFromM_msip (s : State) : (s.returnFromM).msip = s.msip := rfl
@[simp] theorem State.returnFromM_reservation (s : State) : (s.returnFromM).reservation = s.reservation := rfl
@[simp] theorem State.returnFromM_stalled (s : State) : (s.returnFromM).stalled = s.stalled := rfl
@[simp] theorem State.returnFromM_tc (s : State) : (s.returnFromM).tc = s.tc := rfl
@[simp] theorem State.returnFromM_pmpStale (s : State) : (s.returnFromM).pmpStale = s.pmpStale := rfl
@[simp] theorem State.returnFromM_pmpStaleG (s : State) : (s.returnFromM).pmpStaleG = s.pmpStaleG := rfl
@[simp] theorem State.returnFromM_mem (s : State) : (s.returnFromM).mem = s.mem := rfl
@[simp] theorem State.returnFromM_env (s : State) : (s.returnFromM).env = s.env := rfl
@[simp] theorem State.returnFromM_draws (s : State) : (s.returnFromM).draws = s.draws := rfl

@[simp] theorem State.returnFromS_cfg (s : State) : (s.returnFromS).cfg = s.cfg := rfl
@[simp] theorem State.returnFromS_x (s : State) : (s.returnFromS).x = s.x := rfl
@[simp] theorem State.returnFromS_pc (s : State) : (s.returnFromS).pc = s.pc := rfl
@[simp] theorem State.returnFromS_mxl (s : State) : (s.returnFromS).mxl = s.mxl := rfl
@[simp] theorem State.returnFromS_ext (s : State) : (s.returnFromS).ext = s.ext := rfl
@[simp] theorem State.returnFromS_m (s : State) : (s.returnFromS).m = s.m := rfl
@[simp] theorem State.returnFromS_pmpcfg (s : State) : (s.returnFromS).pmpcfg = s.pmpcfg := rfl
@[simp] theorem State.returnFromS_pmpaddr (s : State) : (s.returnFromS).pmpaddr = s.pmpaddr := rfl
@[simp] theorem State.returnFromS_s (s : State) : (s.returnFromS).s = s.s := rfl
@[simp] theorem State.returnFromS_vs (s : State) : (s.returnFromS).vs = s.vs := rfl
@[simp] theorem State.returnFromS_lines (s : State) : (s.returnFromS).lines = s.lines := rfl
@[simp] theorem State.returnFromS_mtime (s : State) : (s.returnFromS).mtime = s.mtime := rfl
@[simp] theorem State.returnFromS_mtimecmp (s : State) : (s.returnFromS).mtimecmp = s.mtimecmp := rfl
@[simp] theorem State.returnFromS_msip (s : State) : (s.returnFromS).msip = s.msip := rfl
@[simp] theorem State.returnFromS_reservation (s : State) : (s.returnFromS).reservation = s.reservation := rfl
@[simp] theorem State.returnFromS_stalled (s : State) : (s.returnFromS).stalled = s.stalled := rfl
@[simp] theorem State.returnFromS_tc (s : State) : (s.returnFromS).tc = s.tc := rfl
@[simp] theorem State.returnFromS_pmpStale (s : State) : (s.returnFromS).pmpStale = s.pmpStale := rfl
@[simp] theorem State.returnFromS_pmpStaleG (s : State) : (s.returnFromS).pmpStaleG = s.pmpStaleG := rfl
@[simp] theorem State.returnFromS_mem (s : State) : (s.returnFromS).mem = s.mem := rfl
@[simp] theorem State.returnFromS_env (s : State) : (s.returnFromS).env = s.env := rfl
@[simp] theorem State.returnFromS_draws (s : State) : (s.returnFromS).draws = s.draws := rfl

@[simp] theorem State.returnFromVS_cfg (s : State) : (s.returnFromVS).cfg = s.cfg := rfl
@[simp] theorem State.returnFromVS_x (s : State) : (s.returnFromVS).x = s.x := rfl
@[simp] theorem State.returnFromVS_pc (s : State) : (s.returnFromVS).pc = s.pc := rfl
@[simp] theorem State.returnFromVS_virt (s : State) : (s.returnFromVS).virt = s.virt := rfl
@[simp] theorem State.returnFromVS_mxl (s : State) : (s.returnFromVS).mxl = s.mxl := rfl
@[simp] theorem State.returnFromVS_ext (s : State) : (s.returnFromVS).ext = s.ext := rfl
@[simp] theorem State.returnFromVS_mstatus (s : State) : (s.returnFromVS).mstatus = s.mstatus := rfl
@[simp] theorem State.returnFromVS_m (s : State) : (s.returnFromVS).m = s.m := rfl
@[simp] theorem State.returnFromVS_pmpcfg (s : State) : (s.returnFromVS).pmpcfg = s.pmpcfg := rfl
@[simp] theorem State.returnFromVS_pmpaddr (s : State) : (s.returnFromVS).pmpaddr = s.pmpaddr := rfl
@[simp] theorem State.returnFromVS_s (s : State) : (s.returnFromVS).s = s.s := rfl
@[simp] theorem State.returnFromVS_h (s : State) : (s.returnFromVS).h = s.h := rfl
@[simp] theorem State.returnFromVS_lines (s : State) : (s.returnFromVS).lines = s.lines := rfl
@[simp] theorem State.returnFromVS_mtime (s : State) : (s.returnFromVS).mtime = s.mtime := rfl
@[simp] theorem State.returnFromVS_mtimecmp (s : State) : (s.returnFromVS).mtimecmp = s.mtimecmp := rfl
@[simp] theorem State.returnFromVS_msip (s : State) : (s.returnFromVS).msip = s.msip := rfl
@[simp] theorem State.returnFromVS_reservation (s : State) : (s.returnFromVS).reservation = s.reservation := rfl
@[simp] theorem State.returnFromVS_stalled (s : State) : (s.returnFromVS).stalled = s.stalled := rfl
@[simp] theorem State.returnFromVS_tc (s : State) : (s.returnFromVS).tc = s.tc := rfl
@[simp] theorem State.returnFromVS_pmpStale (s : State) : (s.returnFromVS).pmpStale = s.pmpStale := rfl
@[simp] theorem State.returnFromVS_pmpStaleG (s : State) : (s.returnFromVS).pmpStaleG = s.pmpStaleG := rfl
@[simp] theorem State.returnFromVS_mem (s : State) : (s.returnFromVS).mem = s.mem := rfl
@[simp] theorem State.returnFromVS_env (s : State) : (s.returnFromVS).env = s.env := rfl
@[simp] theorem State.returnFromVS_draws (s : State) : (s.returnFromVS).draws = s.draws := rfl

/-! ## The translation cache -/

@[simp] theorem State.fenceHs_cfg (s : State) (sel : FenceSel) : (s.fenceHs sel).cfg = s.cfg := rfl
@[simp] theorem State.fenceHs_x (s : State) (sel : FenceSel) : (s.fenceHs sel).x = s.x := rfl
@[simp] theorem State.fenceHs_pc (s : State) (sel : FenceSel) : (s.fenceHs sel).pc = s.pc := rfl
@[simp] theorem State.fenceHs_priv (s : State) (sel : FenceSel) : (s.fenceHs sel).priv = s.priv := rfl
@[simp] theorem State.fenceHs_virt (s : State) (sel : FenceSel) : (s.fenceHs sel).virt = s.virt := rfl
@[simp] theorem State.fenceHs_mxl (s : State) (sel : FenceSel) : (s.fenceHs sel).mxl = s.mxl := rfl
@[simp] theorem State.fenceHs_ext (s : State) (sel : FenceSel) : (s.fenceHs sel).ext = s.ext := rfl
@[simp] theorem State.fenceHs_mstatus (s : State) (sel : FenceSel) : (s.fenceHs sel).mstatus = s.mstatus := rfl
@[simp] theorem State.fenceHs_m (s : State) (sel : FenceSel) : (s.fenceHs sel).m = s.m := rfl
@[simp] theorem State.fenceHs_pmpcfg (s : State) (sel : FenceSel) : (s.fenceHs sel).pmpcfg = s.pmpcfg := rfl
@[simp] theorem State.fenceHs_pmpaddr (s : State) (sel : FenceSel) : (s.fenceHs sel).pmpaddr = s.pmpaddr := rfl
@[simp] theorem State.fenceHs_s (s : State) (sel : FenceSel) : (s.fenceHs sel).s = s.s := rfl
@[simp] theorem State.fenceHs_h (s : State) (sel : FenceSel) : (s.fenceHs sel).h = s.h := rfl
@[simp] theorem State.fenceHs_vs (s : State) (sel : FenceSel) : (s.fenceHs sel).vs = s.vs := rfl
@[simp] theorem State.fenceHs_lines (s : State) (sel : FenceSel) : (s.fenceHs sel).lines = s.lines := rfl
@[simp] theorem State.fenceHs_mtime (s : State) (sel : FenceSel) : (s.fenceHs sel).mtime = s.mtime := rfl
@[simp] theorem State.fenceHs_mtimecmp (s : State) (sel : FenceSel) : (s.fenceHs sel).mtimecmp = s.mtimecmp := rfl
@[simp] theorem State.fenceHs_msip (s : State) (sel : FenceSel) : (s.fenceHs sel).msip = s.msip := rfl
@[simp] theorem State.fenceHs_reservation (s : State) (sel : FenceSel) : (s.fenceHs sel).reservation = s.reservation := rfl
@[simp] theorem State.fenceHs_stalled (s : State) (sel : FenceSel) : (s.fenceHs sel).stalled = s.stalled := rfl
@[simp] theorem State.fenceHs_pmpStaleG (s : State) (sel : FenceSel) : (s.fenceHs sel).pmpStaleG = s.pmpStaleG := rfl
@[simp] theorem State.fenceHs_mem (s : State) (sel : FenceSel) : (s.fenceHs sel).mem = s.mem := rfl
@[simp] theorem State.fenceHs_env (s : State) (sel : FenceSel) : (s.fenceHs sel).env = s.env := rfl
@[simp] theorem State.fenceHs_draws (s : State) (sel : FenceSel) : (s.fenceHs sel).draws = s.draws := rfl

@[simp] theorem State.fenceVs_cfg (s : State) (sel : FenceSel) : (s.fenceVs sel).cfg = s.cfg := rfl
@[simp] theorem State.fenceVs_x (s : State) (sel : FenceSel) : (s.fenceVs sel).x = s.x := rfl
@[simp] theorem State.fenceVs_pc (s : State) (sel : FenceSel) : (s.fenceVs sel).pc = s.pc := rfl
@[simp] theorem State.fenceVs_priv (s : State) (sel : FenceSel) : (s.fenceVs sel).priv = s.priv := rfl
@[simp] theorem State.fenceVs_virt (s : State) (sel : FenceSel) : (s.fenceVs sel).virt = s.virt := rfl
@[simp] theorem State.fenceVs_mxl (s : State) (sel : FenceSel) : (s.fenceVs sel).mxl = s.mxl := rfl
@[simp] theorem State.fenceVs_ext (s : State) (sel : FenceSel) : (s.fenceVs sel).ext = s.ext := rfl
@[simp] theorem State.fenceVs_mstatus (s : State) (sel : FenceSel) : (s.fenceVs sel).mstatus = s.mstatus := rfl
@[simp] theorem State.fenceVs_m (s : State) (sel : FenceSel) : (s.fenceVs sel).m = s.m := rfl
@[simp] theorem State.fenceVs_pmpcfg (s : State) (sel : FenceSel) : (s.fenceVs sel).pmpcfg = s.pmpcfg := rfl
@[simp] theorem State.fenceVs_pmpaddr (s : State) (sel : FenceSel) : (s.fenceVs sel).pmpaddr = s.pmpaddr := rfl
@[simp] theorem State.fenceVs_s (s : State) (sel : FenceSel) : (s.fenceVs sel).s = s.s := rfl
@[simp] theorem State.fenceVs_h (s : State) (sel : FenceSel) : (s.fenceVs sel).h = s.h := rfl
@[simp] theorem State.fenceVs_vs (s : State) (sel : FenceSel) : (s.fenceVs sel).vs = s.vs := rfl
@[simp] theorem State.fenceVs_lines (s : State) (sel : FenceSel) : (s.fenceVs sel).lines = s.lines := rfl
@[simp] theorem State.fenceVs_mtime (s : State) (sel : FenceSel) : (s.fenceVs sel).mtime = s.mtime := rfl
@[simp] theorem State.fenceVs_mtimecmp (s : State) (sel : FenceSel) : (s.fenceVs sel).mtimecmp = s.mtimecmp := rfl
@[simp] theorem State.fenceVs_msip (s : State) (sel : FenceSel) : (s.fenceVs sel).msip = s.msip := rfl
@[simp] theorem State.fenceVs_reservation (s : State) (sel : FenceSel) : (s.fenceVs sel).reservation = s.reservation := rfl
@[simp] theorem State.fenceVs_stalled (s : State) (sel : FenceSel) : (s.fenceVs sel).stalled = s.stalled := rfl
@[simp] theorem State.fenceVs_pmpStale (s : State) (sel : FenceSel) : (s.fenceVs sel).pmpStale = s.pmpStale := rfl
@[simp] theorem State.fenceVs_pmpStaleG (s : State) (sel : FenceSel) : (s.fenceVs sel).pmpStaleG = s.pmpStaleG := rfl
@[simp] theorem State.fenceVs_mem (s : State) (sel : FenceSel) : (s.fenceVs sel).mem = s.mem := rfl
@[simp] theorem State.fenceVs_env (s : State) (sel : FenceSel) : (s.fenceVs sel).env = s.env := rfl
@[simp] theorem State.fenceVs_draws (s : State) (sel : FenceSel) : (s.fenceVs sel).draws = s.draws := rfl

@[simp] theorem State.fenceG_cfg (s : State) (sel : FenceSel) : (s.fenceG sel).cfg = s.cfg := rfl
@[simp] theorem State.fenceG_x (s : State) (sel : FenceSel) : (s.fenceG sel).x = s.x := rfl
@[simp] theorem State.fenceG_pc (s : State) (sel : FenceSel) : (s.fenceG sel).pc = s.pc := rfl
@[simp] theorem State.fenceG_priv (s : State) (sel : FenceSel) : (s.fenceG sel).priv = s.priv := rfl
@[simp] theorem State.fenceG_virt (s : State) (sel : FenceSel) : (s.fenceG sel).virt = s.virt := rfl
@[simp] theorem State.fenceG_mxl (s : State) (sel : FenceSel) : (s.fenceG sel).mxl = s.mxl := rfl
@[simp] theorem State.fenceG_ext (s : State) (sel : FenceSel) : (s.fenceG sel).ext = s.ext := rfl
@[simp] theorem State.fenceG_mstatus (s : State) (sel : FenceSel) : (s.fenceG sel).mstatus = s.mstatus := rfl
@[simp] theorem State.fenceG_m (s : State) (sel : FenceSel) : (s.fenceG sel).m = s.m := rfl
@[simp] theorem State.fenceG_pmpcfg (s : State) (sel : FenceSel) : (s.fenceG sel).pmpcfg = s.pmpcfg := rfl
@[simp] theorem State.fenceG_pmpaddr (s : State) (sel : FenceSel) : (s.fenceG sel).pmpaddr = s.pmpaddr := rfl
@[simp] theorem State.fenceG_s (s : State) (sel : FenceSel) : (s.fenceG sel).s = s.s := rfl
@[simp] theorem State.fenceG_h (s : State) (sel : FenceSel) : (s.fenceG sel).h = s.h := rfl
@[simp] theorem State.fenceG_vs (s : State) (sel : FenceSel) : (s.fenceG sel).vs = s.vs := rfl
@[simp] theorem State.fenceG_lines (s : State) (sel : FenceSel) : (s.fenceG sel).lines = s.lines := rfl
@[simp] theorem State.fenceG_mtime (s : State) (sel : FenceSel) : (s.fenceG sel).mtime = s.mtime := rfl
@[simp] theorem State.fenceG_mtimecmp (s : State) (sel : FenceSel) : (s.fenceG sel).mtimecmp = s.mtimecmp := rfl
@[simp] theorem State.fenceG_msip (s : State) (sel : FenceSel) : (s.fenceG sel).msip = s.msip := rfl
@[simp] theorem State.fenceG_reservation (s : State) (sel : FenceSel) : (s.fenceG sel).reservation = s.reservation := rfl
@[simp] theorem State.fenceG_stalled (s : State) (sel : FenceSel) : (s.fenceG sel).stalled = s.stalled := rfl
@[simp] theorem State.fenceG_pmpStale (s : State) (sel : FenceSel) : (s.fenceG sel).pmpStale = s.pmpStale := rfl
@[simp] theorem State.fenceG_mem (s : State) (sel : FenceSel) : (s.fenceG sel).mem = s.mem := rfl
@[simp] theorem State.fenceG_env (s : State) (sel : FenceSel) : (s.fenceG sel).env = s.env := rfl
@[simp] theorem State.fenceG_draws (s : State) (sel : FenceSel) : (s.fenceG sel).draws = s.draws := rfl

@[simp] theorem State.fenceGuest_cfg (s : State) (rs1 rs2 : RegIdx) : (s.fenceGuest rs1 rs2).cfg = s.cfg := by
  unfold State.fenceGuest; dsimp only; split <;> rfl
@[simp] theorem State.fenceGuest_x (s : State) (rs1 rs2 : RegIdx) : (s.fenceGuest rs1 rs2).x = s.x := by
  unfold State.fenceGuest; dsimp only; split <;> rfl
@[simp] theorem State.fenceGuest_pc (s : State) (rs1 rs2 : RegIdx) : (s.fenceGuest rs1 rs2).pc = s.pc := by
  unfold State.fenceGuest; dsimp only; split <;> rfl
@[simp] theorem State.fenceGuest_priv (s : State) (rs1 rs2 : RegIdx) : (s.fenceGuest rs1 rs2).priv = s.priv := by
  unfold State.fenceGuest; dsimp only; split <;> rfl
@[simp] theorem State.fenceGuest_virt (s : State) (rs1 rs2 : RegIdx) : (s.fenceGuest rs1 rs2).virt = s.virt := by
  unfold State.fenceGuest; dsimp only; split <;> rfl
@[simp] theorem State.fenceGuest_mxl (s : State) (rs1 rs2 : RegIdx) : (s.fenceGuest rs1 rs2).mxl = s.mxl := by
  unfold State.fenceGuest; dsimp only; split <;> rfl
@[simp] theorem State.fenceGuest_ext (s : State) (rs1 rs2 : RegIdx) : (s.fenceGuest rs1 rs2).ext = s.ext := by
  unfold State.fenceGuest; dsimp only; split <;> rfl
@[simp] theorem State.fenceGuest_mstatus (s : State) (rs1 rs2 : RegIdx) : (s.fenceGuest rs1 rs2).mstatus = s.mstatus := by
  unfold State.fenceGuest; dsimp only; split <;> rfl
@[simp] theorem State.fenceGuest_m (s : State) (rs1 rs2 : RegIdx) : (s.fenceGuest rs1 rs2).m = s.m := by
  unfold State.fenceGuest; dsimp only; split <;> rfl
@[simp] theorem State.fenceGuest_pmpcfg (s : State) (rs1 rs2 : RegIdx) : (s.fenceGuest rs1 rs2).pmpcfg = s.pmpcfg := by
  unfold State.fenceGuest; dsimp only; split <;> rfl
@[simp] theorem State.fenceGuest_pmpaddr (s : State) (rs1 rs2 : RegIdx) : (s.fenceGuest rs1 rs2).pmpaddr = s.pmpaddr := by
  unfold State.fenceGuest; dsimp only; split <;> rfl
@[simp] theorem State.fenceGuest_s (s : State) (rs1 rs2 : RegIdx) : (s.fenceGuest rs1 rs2).s = s.s := by
  unfold State.fenceGuest; dsimp only; split <;> rfl
@[simp] theorem State.fenceGuest_h (s : State) (rs1 rs2 : RegIdx) : (s.fenceGuest rs1 rs2).h = s.h := by
  unfold State.fenceGuest; dsimp only; split <;> rfl
@[simp] theorem State.fenceGuest_vs (s : State) (rs1 rs2 : RegIdx) : (s.fenceGuest rs1 rs2).vs = s.vs := by
  unfold State.fenceGuest; dsimp only; split <;> rfl
@[simp] theorem State.fenceGuest_lines (s : State) (rs1 rs2 : RegIdx) : (s.fenceGuest rs1 rs2).lines = s.lines := by
  unfold State.fenceGuest; dsimp only; split <;> rfl
@[simp] theorem State.fenceGuest_mtime (s : State) (rs1 rs2 : RegIdx) : (s.fenceGuest rs1 rs2).mtime = s.mtime := by
  unfold State.fenceGuest; dsimp only; split <;> rfl
@[simp] theorem State.fenceGuest_mtimecmp (s : State) (rs1 rs2 : RegIdx) : (s.fenceGuest rs1 rs2).mtimecmp = s.mtimecmp := by
  unfold State.fenceGuest; dsimp only; split <;> rfl
@[simp] theorem State.fenceGuest_msip (s : State) (rs1 rs2 : RegIdx) : (s.fenceGuest rs1 rs2).msip = s.msip := by
  unfold State.fenceGuest; dsimp only; split <;> rfl
@[simp] theorem State.fenceGuest_reservation (s : State) (rs1 rs2 : RegIdx) : (s.fenceGuest rs1 rs2).reservation = s.reservation := by
  unfold State.fenceGuest; dsimp only; split <;> rfl
@[simp] theorem State.fenceGuest_stalled (s : State) (rs1 rs2 : RegIdx) : (s.fenceGuest rs1 rs2).stalled = s.stalled := by
  unfold State.fenceGuest; dsimp only; split <;> rfl
@[simp] theorem State.fenceGuest_pmpStale (s : State) (rs1 rs2 : RegIdx) : (s.fenceGuest rs1 rs2).pmpStale = s.pmpStale := by
  unfold State.fenceGuest; dsimp only; split <;> rfl
@[simp] theorem State.fenceGuest_pmpStaleG (s : State) (rs1 rs2 : RegIdx) : (s.fenceGuest rs1 rs2).pmpStaleG = s.pmpStaleG := by
  unfold State.fenceGuest; dsimp only; split <;> rfl
@[simp] theorem State.fenceGuest_mem (s : State) (rs1 rs2 : RegIdx) : (s.fenceGuest rs1 rs2).mem = s.mem := by
  unfold State.fenceGuest; dsimp only; split <;> rfl
@[simp] theorem State.fenceGuest_env (s : State) (rs1 rs2 : RegIdx) : (s.fenceGuest rs1 rs2).env = s.env := by
  unfold State.fenceGuest; dsimp only; split <;> rfl
@[simp] theorem State.fenceGuest_draws (s : State) (rs1 rs2 : RegIdx) : (s.fenceGuest rs1 rs2).draws = s.draws := by
  unfold State.fenceGuest; dsimp only; split <;> rfl

@[simp] theorem State.sfence_cfg (s : State) (rs1 rs2 : RegIdx) : (s.sfence rs1 rs2).cfg = s.cfg := by
  unfold State.sfence; split
  · simp
  · dsimp only; split <;> rfl
@[simp] theorem State.sfence_x (s : State) (rs1 rs2 : RegIdx) : (s.sfence rs1 rs2).x = s.x := by
  unfold State.sfence; split
  · simp
  · dsimp only; split <;> rfl
@[simp] theorem State.sfence_pc (s : State) (rs1 rs2 : RegIdx) : (s.sfence rs1 rs2).pc = s.pc := by
  unfold State.sfence; split
  · simp
  · dsimp only; split <;> rfl
@[simp] theorem State.sfence_priv (s : State) (rs1 rs2 : RegIdx) : (s.sfence rs1 rs2).priv = s.priv := by
  unfold State.sfence; split
  · simp
  · dsimp only; split <;> rfl
@[simp] theorem State.sfence_virt (s : State) (rs1 rs2 : RegIdx) : (s.sfence rs1 rs2).virt = s.virt := by
  unfold State.sfence; split
  · simp
  · dsimp only; split <;> rfl
@[simp] theorem State.sfence_mxl (s : State) (rs1 rs2 : RegIdx) : (s.sfence rs1 rs2).mxl = s.mxl := by
  unfold State.sfence; split
  · simp
  · dsimp only; split <;> rfl
@[simp] theorem State.sfence_ext (s : State) (rs1 rs2 : RegIdx) : (s.sfence rs1 rs2).ext = s.ext := by
  unfold State.sfence; split
  · simp
  · dsimp only; split <;> rfl
@[simp] theorem State.sfence_mstatus (s : State) (rs1 rs2 : RegIdx) : (s.sfence rs1 rs2).mstatus = s.mstatus := by
  unfold State.sfence; split
  · simp
  · dsimp only; split <;> rfl
@[simp] theorem State.sfence_m (s : State) (rs1 rs2 : RegIdx) : (s.sfence rs1 rs2).m = s.m := by
  unfold State.sfence; split
  · simp
  · dsimp only; split <;> rfl
@[simp] theorem State.sfence_pmpcfg (s : State) (rs1 rs2 : RegIdx) : (s.sfence rs1 rs2).pmpcfg = s.pmpcfg := by
  unfold State.sfence; split
  · simp
  · dsimp only; split <;> rfl
@[simp] theorem State.sfence_pmpaddr (s : State) (rs1 rs2 : RegIdx) : (s.sfence rs1 rs2).pmpaddr = s.pmpaddr := by
  unfold State.sfence; split
  · simp
  · dsimp only; split <;> rfl
@[simp] theorem State.sfence_s (s : State) (rs1 rs2 : RegIdx) : (s.sfence rs1 rs2).s = s.s := by
  unfold State.sfence; split
  · simp
  · dsimp only; split <;> rfl
@[simp] theorem State.sfence_h (s : State) (rs1 rs2 : RegIdx) : (s.sfence rs1 rs2).h = s.h := by
  unfold State.sfence; split
  · simp
  · dsimp only; split <;> rfl
@[simp] theorem State.sfence_vs (s : State) (rs1 rs2 : RegIdx) : (s.sfence rs1 rs2).vs = s.vs := by
  unfold State.sfence; split
  · simp
  · dsimp only; split <;> rfl
@[simp] theorem State.sfence_lines (s : State) (rs1 rs2 : RegIdx) : (s.sfence rs1 rs2).lines = s.lines := by
  unfold State.sfence; split
  · simp
  · dsimp only; split <;> rfl
@[simp] theorem State.sfence_mtime (s : State) (rs1 rs2 : RegIdx) : (s.sfence rs1 rs2).mtime = s.mtime := by
  unfold State.sfence; split
  · simp
  · dsimp only; split <;> rfl
@[simp] theorem State.sfence_mtimecmp (s : State) (rs1 rs2 : RegIdx) : (s.sfence rs1 rs2).mtimecmp = s.mtimecmp := by
  unfold State.sfence; split
  · simp
  · dsimp only; split <;> rfl
@[simp] theorem State.sfence_msip (s : State) (rs1 rs2 : RegIdx) : (s.sfence rs1 rs2).msip = s.msip := by
  unfold State.sfence; split
  · simp
  · dsimp only; split <;> rfl
@[simp] theorem State.sfence_reservation (s : State) (rs1 rs2 : RegIdx) : (s.sfence rs1 rs2).reservation = s.reservation := by
  unfold State.sfence; split
  · simp
  · dsimp only; split <;> rfl
@[simp] theorem State.sfence_stalled (s : State) (rs1 rs2 : RegIdx) : (s.sfence rs1 rs2).stalled = s.stalled := by
  unfold State.sfence; split
  · simp
  · dsimp only; split <;> rfl
@[simp] theorem State.sfence_pmpStaleG (s : State) (rs1 rs2 : RegIdx) : (s.sfence rs1 rs2).pmpStaleG = s.pmpStaleG := by
  unfold State.sfence; split
  · simp
  · dsimp only; split <;> rfl
@[simp] theorem State.sfence_mem (s : State) (rs1 rs2 : RegIdx) : (s.sfence rs1 rs2).mem = s.mem := by
  unfold State.sfence; split
  · simp
  · dsimp only; split <;> rfl
@[simp] theorem State.sfence_env (s : State) (rs1 rs2 : RegIdx) : (s.sfence rs1 rs2).env = s.env := by
  unfold State.sfence; split
  · simp
  · dsimp only; split <;> rfl
@[simp] theorem State.sfence_draws (s : State) (rs1 rs2 : RegIdx) : (s.sfence rs1 rs2).draws = s.draws := by
  unfold State.sfence; split
  · simp
  · dsimp only; split <;> rfl

@[simp] theorem State.fenceGpa_cfg (s : State) (rs1 rs2 : RegIdx) : (s.fenceGpa rs1 rs2).cfg = s.cfg := rfl
@[simp] theorem State.fenceGpa_x (s : State) (rs1 rs2 : RegIdx) : (s.fenceGpa rs1 rs2).x = s.x := rfl
@[simp] theorem State.fenceGpa_pc (s : State) (rs1 rs2 : RegIdx) : (s.fenceGpa rs1 rs2).pc = s.pc := rfl
@[simp] theorem State.fenceGpa_priv (s : State) (rs1 rs2 : RegIdx) : (s.fenceGpa rs1 rs2).priv = s.priv := rfl
@[simp] theorem State.fenceGpa_virt (s : State) (rs1 rs2 : RegIdx) : (s.fenceGpa rs1 rs2).virt = s.virt := rfl
@[simp] theorem State.fenceGpa_mxl (s : State) (rs1 rs2 : RegIdx) : (s.fenceGpa rs1 rs2).mxl = s.mxl := rfl
@[simp] theorem State.fenceGpa_ext (s : State) (rs1 rs2 : RegIdx) : (s.fenceGpa rs1 rs2).ext = s.ext := rfl
@[simp] theorem State.fenceGpa_mstatus (s : State) (rs1 rs2 : RegIdx) : (s.fenceGpa rs1 rs2).mstatus = s.mstatus := rfl
@[simp] theorem State.fenceGpa_m (s : State) (rs1 rs2 : RegIdx) : (s.fenceGpa rs1 rs2).m = s.m := rfl
@[simp] theorem State.fenceGpa_pmpcfg (s : State) (rs1 rs2 : RegIdx) : (s.fenceGpa rs1 rs2).pmpcfg = s.pmpcfg := rfl
@[simp] theorem State.fenceGpa_pmpaddr (s : State) (rs1 rs2 : RegIdx) : (s.fenceGpa rs1 rs2).pmpaddr = s.pmpaddr := rfl
@[simp] theorem State.fenceGpa_s (s : State) (rs1 rs2 : RegIdx) : (s.fenceGpa rs1 rs2).s = s.s := rfl
@[simp] theorem State.fenceGpa_h (s : State) (rs1 rs2 : RegIdx) : (s.fenceGpa rs1 rs2).h = s.h := rfl
@[simp] theorem State.fenceGpa_vs (s : State) (rs1 rs2 : RegIdx) : (s.fenceGpa rs1 rs2).vs = s.vs := rfl
@[simp] theorem State.fenceGpa_lines (s : State) (rs1 rs2 : RegIdx) : (s.fenceGpa rs1 rs2).lines = s.lines := rfl
@[simp] theorem State.fenceGpa_mtime (s : State) (rs1 rs2 : RegIdx) : (s.fenceGpa rs1 rs2).mtime = s.mtime := rfl
@[simp] theorem State.fenceGpa_mtimecmp (s : State) (rs1 rs2 : RegIdx) : (s.fenceGpa rs1 rs2).mtimecmp = s.mtimecmp := rfl
@[simp] theorem State.fenceGpa_msip (s : State) (rs1 rs2 : RegIdx) : (s.fenceGpa rs1 rs2).msip = s.msip := rfl
@[simp] theorem State.fenceGpa_reservation (s : State) (rs1 rs2 : RegIdx) : (s.fenceGpa rs1 rs2).reservation = s.reservation := rfl
@[simp] theorem State.fenceGpa_stalled (s : State) (rs1 rs2 : RegIdx) : (s.fenceGpa rs1 rs2).stalled = s.stalled := rfl
@[simp] theorem State.fenceGpa_pmpStale (s : State) (rs1 rs2 : RegIdx) : (s.fenceGpa rs1 rs2).pmpStale = s.pmpStale := rfl
@[simp] theorem State.fenceGpa_mem (s : State) (rs1 rs2 : RegIdx) : (s.fenceGpa rs1 rs2).mem = s.mem := rfl
@[simp] theorem State.fenceGpa_env (s : State) (rs1 rs2 : RegIdx) : (s.fenceGpa rs1 rs2).env = s.env := rfl
@[simp] theorem State.fenceGpa_draws (s : State) (rs1 rs2 : RegIdx) : (s.fenceGpa rs1 rs2).draws = s.draws := rfl

@[simp] theorem State.fillTc_cfg (s : State) (st : Stage) (q va shift : Nat) (g : Bool) (p : Word) (spec : Bool) : (s.fillTc st q va shift g p spec).cfg = s.cfg := by
  unfold State.fillTc; split <;> rfl
@[simp] theorem State.fillTc_x (s : State) (st : Stage) (q va shift : Nat) (g : Bool) (p : Word) (spec : Bool) : (s.fillTc st q va shift g p spec).x = s.x := by
  unfold State.fillTc; split <;> rfl
@[simp] theorem State.fillTc_pc (s : State) (st : Stage) (q va shift : Nat) (g : Bool) (p : Word) (spec : Bool) : (s.fillTc st q va shift g p spec).pc = s.pc := by
  unfold State.fillTc; split <;> rfl
@[simp] theorem State.fillTc_priv (s : State) (st : Stage) (q va shift : Nat) (g : Bool) (p : Word) (spec : Bool) : (s.fillTc st q va shift g p spec).priv = s.priv := by
  unfold State.fillTc; split <;> rfl
@[simp] theorem State.fillTc_virt (s : State) (st : Stage) (q va shift : Nat) (g : Bool) (p : Word) (spec : Bool) : (s.fillTc st q va shift g p spec).virt = s.virt := by
  unfold State.fillTc; split <;> rfl
@[simp] theorem State.fillTc_mxl (s : State) (st : Stage) (q va shift : Nat) (g : Bool) (p : Word) (spec : Bool) : (s.fillTc st q va shift g p spec).mxl = s.mxl := by
  unfold State.fillTc; split <;> rfl
@[simp] theorem State.fillTc_ext (s : State) (st : Stage) (q va shift : Nat) (g : Bool) (p : Word) (spec : Bool) : (s.fillTc st q va shift g p spec).ext = s.ext := by
  unfold State.fillTc; split <;> rfl
@[simp] theorem State.fillTc_mstatus (s : State) (st : Stage) (q va shift : Nat) (g : Bool) (p : Word) (spec : Bool) : (s.fillTc st q va shift g p spec).mstatus = s.mstatus := by
  unfold State.fillTc; split <;> rfl
@[simp] theorem State.fillTc_m (s : State) (st : Stage) (q va shift : Nat) (g : Bool) (p : Word) (spec : Bool) : (s.fillTc st q va shift g p spec).m = s.m := by
  unfold State.fillTc; split <;> rfl
@[simp] theorem State.fillTc_pmpcfg (s : State) (st : Stage) (q va shift : Nat) (g : Bool) (p : Word) (spec : Bool) : (s.fillTc st q va shift g p spec).pmpcfg = s.pmpcfg := by
  unfold State.fillTc; split <;> rfl
@[simp] theorem State.fillTc_pmpaddr (s : State) (st : Stage) (q va shift : Nat) (g : Bool) (p : Word) (spec : Bool) : (s.fillTc st q va shift g p spec).pmpaddr = s.pmpaddr := by
  unfold State.fillTc; split <;> rfl
@[simp] theorem State.fillTc_s (s : State) (st : Stage) (q va shift : Nat) (g : Bool) (p : Word) (spec : Bool) : (s.fillTc st q va shift g p spec).s = s.s := by
  unfold State.fillTc; split <;> rfl
@[simp] theorem State.fillTc_h (s : State) (st : Stage) (q va shift : Nat) (g : Bool) (p : Word) (spec : Bool) : (s.fillTc st q va shift g p spec).h = s.h := by
  unfold State.fillTc; split <;> rfl
@[simp] theorem State.fillTc_vs (s : State) (st : Stage) (q va shift : Nat) (g : Bool) (p : Word) (spec : Bool) : (s.fillTc st q va shift g p spec).vs = s.vs := by
  unfold State.fillTc; split <;> rfl
@[simp] theorem State.fillTc_lines (s : State) (st : Stage) (q va shift : Nat) (g : Bool) (p : Word) (spec : Bool) : (s.fillTc st q va shift g p spec).lines = s.lines := by
  unfold State.fillTc; split <;> rfl
@[simp] theorem State.fillTc_mtime (s : State) (st : Stage) (q va shift : Nat) (g : Bool) (p : Word) (spec : Bool) : (s.fillTc st q va shift g p spec).mtime = s.mtime := by
  unfold State.fillTc; split <;> rfl
@[simp] theorem State.fillTc_mtimecmp (s : State) (st : Stage) (q va shift : Nat) (g : Bool) (p : Word) (spec : Bool) : (s.fillTc st q va shift g p spec).mtimecmp = s.mtimecmp := by
  unfold State.fillTc; split <;> rfl
@[simp] theorem State.fillTc_msip (s : State) (st : Stage) (q va shift : Nat) (g : Bool) (p : Word) (spec : Bool) : (s.fillTc st q va shift g p spec).msip = s.msip := by
  unfold State.fillTc; split <;> rfl
@[simp] theorem State.fillTc_reservation (s : State) (st : Stage) (q va shift : Nat) (g : Bool) (p : Word) (spec : Bool) : (s.fillTc st q va shift g p spec).reservation = s.reservation := by
  unfold State.fillTc; split <;> rfl
@[simp] theorem State.fillTc_stalled (s : State) (st : Stage) (q va shift : Nat) (g : Bool) (p : Word) (spec : Bool) : (s.fillTc st q va shift g p spec).stalled = s.stalled := by
  unfold State.fillTc; split <;> rfl
@[simp] theorem State.fillTc_pmpStale (s : State) (st : Stage) (q va shift : Nat) (g : Bool) (p : Word) (spec : Bool) : (s.fillTc st q va shift g p spec).pmpStale = s.pmpStale := by
  unfold State.fillTc; split <;> rfl
@[simp] theorem State.fillTc_pmpStaleG (s : State) (st : Stage) (q va shift : Nat) (g : Bool) (p : Word) (spec : Bool) : (s.fillTc st q va shift g p spec).pmpStaleG = s.pmpStaleG := by
  unfold State.fillTc; split <;> rfl
@[simp] theorem State.fillTc_mem (s : State) (st : Stage) (q va shift : Nat) (g : Bool) (p : Word) (spec : Bool) : (s.fillTc st q va shift g p spec).mem = s.mem := by
  unfold State.fillTc; split <;> rfl
@[simp] theorem State.fillTc_env (s : State) (st : Stage) (q va shift : Nat) (g : Bool) (p : Word) (spec : Bool) : (s.fillTc st q va shift g p spec).env = s.env := by
  unfold State.fillTc; split <;> rfl

@[simp] theorem State.drawPte_snd_cfg (s : State) (st : Stage) (q va shift : Nat) : ((s.drawPte st q va shift).2).cfg = s.cfg := by
  unfold State.drawPte; split <;> rfl
@[simp] theorem State.drawPte_snd_x (s : State) (st : Stage) (q va shift : Nat) : ((s.drawPte st q va shift).2).x = s.x := by
  unfold State.drawPte; split <;> rfl
@[simp] theorem State.drawPte_snd_pc (s : State) (st : Stage) (q va shift : Nat) : ((s.drawPte st q va shift).2).pc = s.pc := by
  unfold State.drawPte; split <;> rfl
@[simp] theorem State.drawPte_snd_priv (s : State) (st : Stage) (q va shift : Nat) : ((s.drawPte st q va shift).2).priv = s.priv := by
  unfold State.drawPte; split <;> rfl
@[simp] theorem State.drawPte_snd_virt (s : State) (st : Stage) (q va shift : Nat) : ((s.drawPte st q va shift).2).virt = s.virt := by
  unfold State.drawPte; split <;> rfl
@[simp] theorem State.drawPte_snd_mxl (s : State) (st : Stage) (q va shift : Nat) : ((s.drawPte st q va shift).2).mxl = s.mxl := by
  unfold State.drawPte; split <;> rfl
@[simp] theorem State.drawPte_snd_ext (s : State) (st : Stage) (q va shift : Nat) : ((s.drawPte st q va shift).2).ext = s.ext := by
  unfold State.drawPte; split <;> rfl
@[simp] theorem State.drawPte_snd_mstatus (s : State) (st : Stage) (q va shift : Nat) : ((s.drawPte st q va shift).2).mstatus = s.mstatus := by
  unfold State.drawPte; split <;> rfl
@[simp] theorem State.drawPte_snd_m (s : State) (st : Stage) (q va shift : Nat) : ((s.drawPte st q va shift).2).m = s.m := by
  unfold State.drawPte; split <;> rfl
@[simp] theorem State.drawPte_snd_pmpcfg (s : State) (st : Stage) (q va shift : Nat) : ((s.drawPte st q va shift).2).pmpcfg = s.pmpcfg := by
  unfold State.drawPte; split <;> rfl
@[simp] theorem State.drawPte_snd_pmpaddr (s : State) (st : Stage) (q va shift : Nat) : ((s.drawPte st q va shift).2).pmpaddr = s.pmpaddr := by
  unfold State.drawPte; split <;> rfl
@[simp] theorem State.drawPte_snd_s (s : State) (st : Stage) (q va shift : Nat) : ((s.drawPte st q va shift).2).s = s.s := by
  unfold State.drawPte; split <;> rfl
@[simp] theorem State.drawPte_snd_h (s : State) (st : Stage) (q va shift : Nat) : ((s.drawPte st q va shift).2).h = s.h := by
  unfold State.drawPte; split <;> rfl
@[simp] theorem State.drawPte_snd_vs (s : State) (st : Stage) (q va shift : Nat) : ((s.drawPte st q va shift).2).vs = s.vs := by
  unfold State.drawPte; split <;> rfl
@[simp] theorem State.drawPte_snd_lines (s : State) (st : Stage) (q va shift : Nat) : ((s.drawPte st q va shift).2).lines = s.lines := by
  unfold State.drawPte; split <;> rfl
@[simp] theorem State.drawPte_snd_mtime (s : State) (st : Stage) (q va shift : Nat) : ((s.drawPte st q va shift).2).mtime = s.mtime := by
  unfold State.drawPte; split <;> rfl
@[simp] theorem State.drawPte_snd_mtimecmp (s : State) (st : Stage) (q va shift : Nat) : ((s.drawPte st q va shift).2).mtimecmp = s.mtimecmp := by
  unfold State.drawPte; split <;> rfl
@[simp] theorem State.drawPte_snd_msip (s : State) (st : Stage) (q va shift : Nat) : ((s.drawPte st q va shift).2).msip = s.msip := by
  unfold State.drawPte; split <;> rfl
@[simp] theorem State.drawPte_snd_reservation (s : State) (st : Stage) (q va shift : Nat) : ((s.drawPte st q va shift).2).reservation = s.reservation := by
  unfold State.drawPte; split <;> rfl
@[simp] theorem State.drawPte_snd_stalled (s : State) (st : Stage) (q va shift : Nat) : ((s.drawPte st q va shift).2).stalled = s.stalled := by
  unfold State.drawPte; split <;> rfl
@[simp] theorem State.drawPte_snd_tc (s : State) (st : Stage) (q va shift : Nat) : ((s.drawPte st q va shift).2).tc = s.tc := by
  unfold State.drawPte; split <;> rfl
@[simp] theorem State.drawPte_snd_pmpStale (s : State) (st : Stage) (q va shift : Nat) : ((s.drawPte st q va shift).2).pmpStale = s.pmpStale := by
  unfold State.drawPte; split <;> rfl
@[simp] theorem State.drawPte_snd_pmpStaleG (s : State) (st : Stage) (q va shift : Nat) : ((s.drawPte st q va shift).2).pmpStaleG = s.pmpStaleG := by
  unfold State.drawPte; split <;> rfl
@[simp] theorem State.drawPte_snd_mem (s : State) (st : Stage) (q va shift : Nat) : ((s.drawPte st q va shift).2).mem = s.mem := by
  unfold State.drawPte; split <;> rfl
@[simp] theorem State.drawPte_snd_env (s : State) (st : Stage) (q va shift : Nat) : ((s.drawPte st q va shift).2).env = s.env := by
  unfold State.drawPte; split <;> rfl

@[simp] theorem State.speculate_cfg (s : State) (k : SpecWalk) : (s.speculate k).cfg = s.cfg := by
  unfold State.speculate; dsimp only; repeat (first | rfl | split)
@[simp] theorem State.speculate_x (s : State) (k : SpecWalk) : (s.speculate k).x = s.x := by
  unfold State.speculate; dsimp only; repeat (first | rfl | split)
@[simp] theorem State.speculate_pc (s : State) (k : SpecWalk) : (s.speculate k).pc = s.pc := by
  unfold State.speculate; dsimp only; repeat (first | rfl | split)
@[simp] theorem State.speculate_priv (s : State) (k : SpecWalk) : (s.speculate k).priv = s.priv := by
  unfold State.speculate; dsimp only; repeat (first | rfl | split)
@[simp] theorem State.speculate_virt (s : State) (k : SpecWalk) : (s.speculate k).virt = s.virt := by
  unfold State.speculate; dsimp only; repeat (first | rfl | split)
@[simp] theorem State.speculate_mxl (s : State) (k : SpecWalk) : (s.speculate k).mxl = s.mxl := by
  unfold State.speculate; dsimp only; repeat (first | rfl | split)
@[simp] theorem State.speculate_ext (s : State) (k : SpecWalk) : (s.speculate k).ext = s.ext := by
  unfold State.speculate; dsimp only; repeat (first | rfl | split)
@[simp] theorem State.speculate_mstatus (s : State) (k : SpecWalk) : (s.speculate k).mstatus = s.mstatus := by
  unfold State.speculate; dsimp only; repeat (first | rfl | split)
@[simp] theorem State.speculate_m (s : State) (k : SpecWalk) : (s.speculate k).m = s.m := by
  unfold State.speculate; dsimp only; repeat (first | rfl | split)
@[simp] theorem State.speculate_pmpcfg (s : State) (k : SpecWalk) : (s.speculate k).pmpcfg = s.pmpcfg := by
  unfold State.speculate; dsimp only; repeat (first | rfl | split)
@[simp] theorem State.speculate_pmpaddr (s : State) (k : SpecWalk) : (s.speculate k).pmpaddr = s.pmpaddr := by
  unfold State.speculate; dsimp only; repeat (first | rfl | split)
@[simp] theorem State.speculate_s (s : State) (k : SpecWalk) : (s.speculate k).s = s.s := by
  unfold State.speculate; dsimp only; repeat (first | rfl | split)
@[simp] theorem State.speculate_h (s : State) (k : SpecWalk) : (s.speculate k).h = s.h := by
  unfold State.speculate; dsimp only; repeat (first | rfl | split)
@[simp] theorem State.speculate_vs (s : State) (k : SpecWalk) : (s.speculate k).vs = s.vs := by
  unfold State.speculate; dsimp only; repeat (first | rfl | split)
@[simp] theorem State.speculate_lines (s : State) (k : SpecWalk) : (s.speculate k).lines = s.lines := by
  unfold State.speculate; dsimp only; repeat (first | rfl | split)
@[simp] theorem State.speculate_mtime (s : State) (k : SpecWalk) : (s.speculate k).mtime = s.mtime := by
  unfold State.speculate; dsimp only; repeat (first | rfl | split)
@[simp] theorem State.speculate_mtimecmp (s : State) (k : SpecWalk) : (s.speculate k).mtimecmp = s.mtimecmp := by
  unfold State.speculate; dsimp only; repeat (first | rfl | split)
@[simp] theorem State.speculate_msip (s : State) (k : SpecWalk) : (s.speculate k).msip = s.msip := by
  unfold State.speculate; dsimp only; repeat (first | rfl | split)
@[simp] theorem State.speculate_reservation (s : State) (k : SpecWalk) : (s.speculate k).reservation = s.reservation := by
  unfold State.speculate; dsimp only; repeat (first | rfl | split)
@[simp] theorem State.speculate_stalled (s : State) (k : SpecWalk) : (s.speculate k).stalled = s.stalled := by
  unfold State.speculate; dsimp only; repeat (first | rfl | split)
@[simp] theorem State.speculate_pmpStale (s : State) (k : SpecWalk) : (s.speculate k).pmpStale = s.pmpStale := by
  unfold State.speculate; dsimp only; repeat (first | rfl | split)
@[simp] theorem State.speculate_pmpStaleG (s : State) (k : SpecWalk) : (s.speculate k).pmpStaleG = s.pmpStaleG := by
  unfold State.speculate; dsimp only; repeat (first | rfl | split)
@[simp] theorem State.speculate_mem (s : State) (k : SpecWalk) : (s.speculate k).mem = s.mem := by
  unfold State.speculate; dsimp only; repeat (first | rfl | split)
@[simp] theorem State.speculate_env (s : State) (k : SpecWalk) : (s.speculate k).env = s.env := by
  unfold State.speculate; dsimp only; repeat (first | rfl | split)

/-! ## Cached PMP results -/

@[simp] theorem State.withPmp_cfg (s : State) (p : PmpSettings) : (s.withPmp p).cfg = s.cfg := rfl
@[simp] theorem State.withPmp_x (s : State) (p : PmpSettings) : (s.withPmp p).x = s.x := rfl
@[simp] theorem State.withPmp_pc (s : State) (p : PmpSettings) : (s.withPmp p).pc = s.pc := rfl
@[simp] theorem State.withPmp_priv (s : State) (p : PmpSettings) : (s.withPmp p).priv = s.priv := rfl
@[simp] theorem State.withPmp_virt (s : State) (p : PmpSettings) : (s.withPmp p).virt = s.virt := rfl
@[simp] theorem State.withPmp_mxl (s : State) (p : PmpSettings) : (s.withPmp p).mxl = s.mxl := rfl
@[simp] theorem State.withPmp_ext (s : State) (p : PmpSettings) : (s.withPmp p).ext = s.ext := rfl
@[simp] theorem State.withPmp_mstatus (s : State) (p : PmpSettings) : (s.withPmp p).mstatus = s.mstatus := rfl
@[simp] theorem State.withPmp_m (s : State) (p : PmpSettings) : (s.withPmp p).m = s.m := rfl
@[simp] theorem State.withPmp_s (s : State) (p : PmpSettings) : (s.withPmp p).s = s.s := rfl
@[simp] theorem State.withPmp_h (s : State) (p : PmpSettings) : (s.withPmp p).h = s.h := rfl
@[simp] theorem State.withPmp_vs (s : State) (p : PmpSettings) : (s.withPmp p).vs = s.vs := rfl
@[simp] theorem State.withPmp_lines (s : State) (p : PmpSettings) : (s.withPmp p).lines = s.lines := rfl
@[simp] theorem State.withPmp_mtime (s : State) (p : PmpSettings) : (s.withPmp p).mtime = s.mtime := rfl
@[simp] theorem State.withPmp_mtimecmp (s : State) (p : PmpSettings) : (s.withPmp p).mtimecmp = s.mtimecmp := rfl
@[simp] theorem State.withPmp_msip (s : State) (p : PmpSettings) : (s.withPmp p).msip = s.msip := rfl
@[simp] theorem State.withPmp_reservation (s : State) (p : PmpSettings) : (s.withPmp p).reservation = s.reservation := rfl
@[simp] theorem State.withPmp_stalled (s : State) (p : PmpSettings) : (s.withPmp p).stalled = s.stalled := rfl
@[simp] theorem State.withPmp_tc (s : State) (p : PmpSettings) : (s.withPmp p).tc = s.tc := rfl
@[simp] theorem State.withPmp_pmpStale (s : State) (p : PmpSettings) : (s.withPmp p).pmpStale = s.pmpStale := rfl
@[simp] theorem State.withPmp_pmpStaleG (s : State) (p : PmpSettings) : (s.withPmp p).pmpStaleG = s.pmpStaleG := rfl
@[simp] theorem State.withPmp_mem (s : State) (p : PmpSettings) : (s.withPmp p).mem = s.mem := rfl
@[simp] theorem State.withPmp_env (s : State) (p : PmpSettings) : (s.withPmp p).env = s.env := rfl
@[simp] theorem State.withPmp_draws (s : State) (p : PmpSettings) : (s.withPmp p).draws = s.draws := rfl

@[simp] theorem State.pmpInUse_cfg (s : State) (g : Bool) (pa : Nat) (n : Need) : (s.pmpInUse g pa n).cfg = s.cfg := by
  unfold State.pmpInUse; split
  · rfl
  · split <;> rfl
@[simp] theorem State.pmpInUse_x (s : State) (g : Bool) (pa : Nat) (n : Need) : (s.pmpInUse g pa n).x = s.x := by
  unfold State.pmpInUse; split
  · rfl
  · split <;> rfl
@[simp] theorem State.pmpInUse_pc (s : State) (g : Bool) (pa : Nat) (n : Need) : (s.pmpInUse g pa n).pc = s.pc := by
  unfold State.pmpInUse; split
  · rfl
  · split <;> rfl
@[simp] theorem State.pmpInUse_priv (s : State) (g : Bool) (pa : Nat) (n : Need) : (s.pmpInUse g pa n).priv = s.priv := by
  unfold State.pmpInUse; split
  · rfl
  · split <;> rfl
@[simp] theorem State.pmpInUse_virt (s : State) (g : Bool) (pa : Nat) (n : Need) : (s.pmpInUse g pa n).virt = s.virt := by
  unfold State.pmpInUse; split
  · rfl
  · split <;> rfl
@[simp] theorem State.pmpInUse_mxl (s : State) (g : Bool) (pa : Nat) (n : Need) : (s.pmpInUse g pa n).mxl = s.mxl := by
  unfold State.pmpInUse; split
  · rfl
  · split <;> rfl
@[simp] theorem State.pmpInUse_ext (s : State) (g : Bool) (pa : Nat) (n : Need) : (s.pmpInUse g pa n).ext = s.ext := by
  unfold State.pmpInUse; split
  · rfl
  · split <;> rfl
@[simp] theorem State.pmpInUse_mstatus (s : State) (g : Bool) (pa : Nat) (n : Need) : (s.pmpInUse g pa n).mstatus = s.mstatus := by
  unfold State.pmpInUse; split
  · rfl
  · split <;> rfl
@[simp] theorem State.pmpInUse_m (s : State) (g : Bool) (pa : Nat) (n : Need) : (s.pmpInUse g pa n).m = s.m := by
  unfold State.pmpInUse; split
  · rfl
  · split <;> rfl
@[simp] theorem State.pmpInUse_s (s : State) (g : Bool) (pa : Nat) (n : Need) : (s.pmpInUse g pa n).s = s.s := by
  unfold State.pmpInUse; split
  · rfl
  · split <;> rfl
@[simp] theorem State.pmpInUse_h (s : State) (g : Bool) (pa : Nat) (n : Need) : (s.pmpInUse g pa n).h = s.h := by
  unfold State.pmpInUse; split
  · rfl
  · split <;> rfl
@[simp] theorem State.pmpInUse_vs (s : State) (g : Bool) (pa : Nat) (n : Need) : (s.pmpInUse g pa n).vs = s.vs := by
  unfold State.pmpInUse; split
  · rfl
  · split <;> rfl
@[simp] theorem State.pmpInUse_lines (s : State) (g : Bool) (pa : Nat) (n : Need) : (s.pmpInUse g pa n).lines = s.lines := by
  unfold State.pmpInUse; split
  · rfl
  · split <;> rfl
@[simp] theorem State.pmpInUse_mtime (s : State) (g : Bool) (pa : Nat) (n : Need) : (s.pmpInUse g pa n).mtime = s.mtime := by
  unfold State.pmpInUse; split
  · rfl
  · split <;> rfl
@[simp] theorem State.pmpInUse_mtimecmp (s : State) (g : Bool) (pa : Nat) (n : Need) : (s.pmpInUse g pa n).mtimecmp = s.mtimecmp := by
  unfold State.pmpInUse; split
  · rfl
  · split <;> rfl
@[simp] theorem State.pmpInUse_msip (s : State) (g : Bool) (pa : Nat) (n : Need) : (s.pmpInUse g pa n).msip = s.msip := by
  unfold State.pmpInUse; split
  · rfl
  · split <;> rfl
@[simp] theorem State.pmpInUse_reservation (s : State) (g : Bool) (pa : Nat) (n : Need) : (s.pmpInUse g pa n).reservation = s.reservation := by
  unfold State.pmpInUse; split
  · rfl
  · split <;> rfl
@[simp] theorem State.pmpInUse_stalled (s : State) (g : Bool) (pa : Nat) (n : Need) : (s.pmpInUse g pa n).stalled = s.stalled := by
  unfold State.pmpInUse; split
  · rfl
  · split <;> rfl
@[simp] theorem State.pmpInUse_tc (s : State) (g : Bool) (pa : Nat) (n : Need) : (s.pmpInUse g pa n).tc = s.tc := by
  unfold State.pmpInUse; split
  · rfl
  · split <;> rfl
@[simp] theorem State.pmpInUse_pmpStale (s : State) (g : Bool) (pa : Nat) (n : Need) : (s.pmpInUse g pa n).pmpStale = s.pmpStale := by
  unfold State.pmpInUse; split
  · rfl
  · split <;> rfl
@[simp] theorem State.pmpInUse_pmpStaleG (s : State) (g : Bool) (pa : Nat) (n : Need) : (s.pmpInUse g pa n).pmpStaleG = s.pmpStaleG := by
  unfold State.pmpInUse; split
  · rfl
  · split <;> rfl
@[simp] theorem State.pmpInUse_mem (s : State) (g : Bool) (pa : Nat) (n : Need) : (s.pmpInUse g pa n).mem = s.mem := by
  unfold State.pmpInUse; split
  · rfl
  · split <;> rfl
@[simp] theorem State.pmpInUse_env (s : State) (g : Bool) (pa : Nat) (n : Need) : (s.pmpInUse g pa n).env = s.env := by
  unfold State.pmpInUse; split
  · rfl
  · split <;> rfl
@[simp] theorem State.pmpInUse_draws (s : State) (g : Bool) (pa : Nat) (n : Need) : (s.pmpInUse g pa n).draws = s.draws := by
  unfold State.pmpInUse; split
  · rfl
  · split <;> rfl

@[simp] theorem State.staleAfter_cfg (s : State) (b : State) : (s.staleAfter b).cfg = s.cfg := by
  unfold State.staleAfter; split <;> rfl
@[simp] theorem State.staleAfter_x (s : State) (b : State) : (s.staleAfter b).x = s.x := by
  unfold State.staleAfter; split <;> rfl
@[simp] theorem State.staleAfter_pc (s : State) (b : State) : (s.staleAfter b).pc = s.pc := by
  unfold State.staleAfter; split <;> rfl
@[simp] theorem State.staleAfter_priv (s : State) (b : State) : (s.staleAfter b).priv = s.priv := by
  unfold State.staleAfter; split <;> rfl
@[simp] theorem State.staleAfter_virt (s : State) (b : State) : (s.staleAfter b).virt = s.virt := by
  unfold State.staleAfter; split <;> rfl
@[simp] theorem State.staleAfter_mxl (s : State) (b : State) : (s.staleAfter b).mxl = s.mxl := by
  unfold State.staleAfter; split <;> rfl
@[simp] theorem State.staleAfter_ext (s : State) (b : State) : (s.staleAfter b).ext = s.ext := by
  unfold State.staleAfter; split <;> rfl
@[simp] theorem State.staleAfter_mstatus (s : State) (b : State) : (s.staleAfter b).mstatus = s.mstatus := by
  unfold State.staleAfter; split <;> rfl
@[simp] theorem State.staleAfter_m (s : State) (b : State) : (s.staleAfter b).m = s.m := by
  unfold State.staleAfter; split <;> rfl
@[simp] theorem State.staleAfter_pmpcfg (s : State) (b : State) : (s.staleAfter b).pmpcfg = s.pmpcfg := by
  unfold State.staleAfter; split <;> rfl
@[simp] theorem State.staleAfter_pmpaddr (s : State) (b : State) : (s.staleAfter b).pmpaddr = s.pmpaddr := by
  unfold State.staleAfter; split <;> rfl
@[simp] theorem State.staleAfter_s (s : State) (b : State) : (s.staleAfter b).s = s.s := by
  unfold State.staleAfter; split <;> rfl
@[simp] theorem State.staleAfter_h (s : State) (b : State) : (s.staleAfter b).h = s.h := by
  unfold State.staleAfter; split <;> rfl
@[simp] theorem State.staleAfter_vs (s : State) (b : State) : (s.staleAfter b).vs = s.vs := by
  unfold State.staleAfter; split <;> rfl
@[simp] theorem State.staleAfter_lines (s : State) (b : State) : (s.staleAfter b).lines = s.lines := by
  unfold State.staleAfter; split <;> rfl
@[simp] theorem State.staleAfter_mtime (s : State) (b : State) : (s.staleAfter b).mtime = s.mtime := by
  unfold State.staleAfter; split <;> rfl
@[simp] theorem State.staleAfter_mtimecmp (s : State) (b : State) : (s.staleAfter b).mtimecmp = s.mtimecmp := by
  unfold State.staleAfter; split <;> rfl
@[simp] theorem State.staleAfter_msip (s : State) (b : State) : (s.staleAfter b).msip = s.msip := by
  unfold State.staleAfter; split <;> rfl
@[simp] theorem State.staleAfter_reservation (s : State) (b : State) : (s.staleAfter b).reservation = s.reservation := by
  unfold State.staleAfter; split <;> rfl
@[simp] theorem State.staleAfter_stalled (s : State) (b : State) : (s.staleAfter b).stalled = s.stalled := by
  unfold State.staleAfter; split <;> rfl
@[simp] theorem State.staleAfter_tc (s : State) (b : State) : (s.staleAfter b).tc = s.tc := by
  unfold State.staleAfter; split <;> rfl
@[simp] theorem State.staleAfter_mem (s : State) (b : State) : (s.staleAfter b).mem = s.mem := by
  unfold State.staleAfter; split <;> rfl
@[simp] theorem State.staleAfter_env (s : State) (b : State) : (s.staleAfter b).env = s.env := by
  unfold State.staleAfter; split <;> rfl
@[simp] theorem State.staleAfter_draws (s : State) (b : State) : (s.staleAfter b).draws = s.draws := by
  unfold State.staleAfter; split <;> rfl

/-! ## CSR instructions -/

@[simp] theorem State.retireBefore_cfg (s : State) (w : Bool) (r : CsrReg) : (s.retireBefore w r).cfg = s.cfg := by
  unfold State.retireBefore; split <;> simp
@[simp] theorem State.retireBefore_x (s : State) (w : Bool) (r : CsrReg) : (s.retireBefore w r).x = s.x := by
  unfold State.retireBefore; split <;> simp
@[simp] theorem State.retireBefore_priv (s : State) (w : Bool) (r : CsrReg) : (s.retireBefore w r).priv = s.priv := by
  unfold State.retireBefore; split <;> simp
@[simp] theorem State.retireBefore_virt (s : State) (w : Bool) (r : CsrReg) : (s.retireBefore w r).virt = s.virt := by
  unfold State.retireBefore; split <;> simp
@[simp] theorem State.retireBefore_mxl (s : State) (w : Bool) (r : CsrReg) : (s.retireBefore w r).mxl = s.mxl := by
  unfold State.retireBefore; split <;> simp
@[simp] theorem State.retireBefore_ext (s : State) (w : Bool) (r : CsrReg) : (s.retireBefore w r).ext = s.ext := by
  unfold State.retireBefore; split <;> simp
@[simp] theorem State.retireBefore_mstatus (s : State) (w : Bool) (r : CsrReg) : (s.retireBefore w r).mstatus = s.mstatus := by
  unfold State.retireBefore; split <;> simp
@[simp] theorem State.retireBefore_pmpcfg (s : State) (w : Bool) (r : CsrReg) : (s.retireBefore w r).pmpcfg = s.pmpcfg := by
  unfold State.retireBefore; split <;> simp
@[simp] theorem State.retireBefore_pmpaddr (s : State) (w : Bool) (r : CsrReg) : (s.retireBefore w r).pmpaddr = s.pmpaddr := by
  unfold State.retireBefore; split <;> simp
@[simp] theorem State.retireBefore_s (s : State) (w : Bool) (r : CsrReg) : (s.retireBefore w r).s = s.s := by
  unfold State.retireBefore; split <;> simp
@[simp] theorem State.retireBefore_h (s : State) (w : Bool) (r : CsrReg) : (s.retireBefore w r).h = s.h := by
  unfold State.retireBefore; split <;> simp
@[simp] theorem State.retireBefore_vs (s : State) (w : Bool) (r : CsrReg) : (s.retireBefore w r).vs = s.vs := by
  unfold State.retireBefore; split <;> simp
@[simp] theorem State.retireBefore_lines (s : State) (w : Bool) (r : CsrReg) : (s.retireBefore w r).lines = s.lines := by
  unfold State.retireBefore; split <;> simp
@[simp] theorem State.retireBefore_mtime (s : State) (w : Bool) (r : CsrReg) : (s.retireBefore w r).mtime = s.mtime := by
  unfold State.retireBefore; split <;> simp
@[simp] theorem State.retireBefore_mtimecmp (s : State) (w : Bool) (r : CsrReg) : (s.retireBefore w r).mtimecmp = s.mtimecmp := by
  unfold State.retireBefore; split <;> simp
@[simp] theorem State.retireBefore_msip (s : State) (w : Bool) (r : CsrReg) : (s.retireBefore w r).msip = s.msip := by
  unfold State.retireBefore; split <;> simp
@[simp] theorem State.retireBefore_reservation (s : State) (w : Bool) (r : CsrReg) : (s.retireBefore w r).reservation = s.reservation := by
  unfold State.retireBefore; split <;> simp
@[simp] theorem State.retireBefore_stalled (s : State) (w : Bool) (r : CsrReg) : (s.retireBefore w r).stalled = s.stalled := by
  unfold State.retireBefore; split <;> simp
@[simp] theorem State.retireBefore_tc (s : State) (w : Bool) (r : CsrReg) : (s.retireBefore w r).tc = s.tc := by
  unfold State.retireBefore; split <;> simp
@[simp] theorem State.retireBefore_pmpStale (s : State) (w : Bool) (r : CsrReg) : (s.retireBefore w r).pmpStale = s.pmpStale := by
  unfold State.retireBefore; split <;> simp
@[simp] theorem State.retireBefore_pmpStaleG (s : State) (w : Bool) (r : CsrReg) : (s.retireBefore w r).pmpStaleG = s.pmpStaleG := by
  unfold State.retireBefore; split <;> simp
@[simp] theorem State.retireBefore_mem (s : State) (w : Bool) (r : CsrReg) : (s.retireBefore w r).mem = s.mem := by
  unfold State.retireBefore; split <;> simp
@[simp] theorem State.retireBefore_env (s : State) (w : Bool) (r : CsrReg) : (s.retireBefore w r).env = s.env := by
  unfold State.retireBefore; split <;> simp
@[simp] theorem State.retireBefore_draws (s : State) (w : Bool) (r : CsrReg) : (s.retireBefore w r).draws = s.draws := by
  unfold State.retireBefore; split <;> simp

@[simp] theorem State.retireBefore_m_tvec (s : State) (w : Bool) (r : CsrReg) : (s.retireBefore w r).m.tvec = s.m.tvec := by
  unfold State.retireBefore; split <;> simp
@[simp] theorem State.retireBefore_m_edeleg (s : State) (w : Bool) (r : CsrReg) : (s.retireBefore w r).m.edeleg = s.m.edeleg := by
  unfold State.retireBefore; split <;> simp
@[simp] theorem State.retireBefore_m_ideleg (s : State) (w : Bool) (r : CsrReg) : (s.retireBefore w r).m.ideleg = s.m.ideleg := by
  unfold State.retireBefore; split <;> simp
@[simp] theorem State.retireBefore_m_ie (s : State) (w : Bool) (r : CsrReg) : (s.retireBefore w r).m.ie = s.m.ie := by
  unfold State.retireBefore; split <;> simp
@[simp] theorem State.retireBefore_m_ip (s : State) (w : Bool) (r : CsrReg) : (s.retireBefore w r).m.ip = s.m.ip := by
  unfold State.retireBefore; split <;> simp
@[simp] theorem State.retireBefore_m_counteren (s : State) (w : Bool) (r : CsrReg) : (s.retireBefore w r).m.counteren = s.m.counteren := by
  unfold State.retireBefore; split <;> simp
@[simp] theorem State.retireBefore_m_countinhibit (s : State) (w : Bool) (r : CsrReg) : (s.retireBefore w r).m.countinhibit = s.m.countinhibit := by
  unfold State.retireBefore; split <;> simp
@[simp] theorem State.retireBefore_m_scratch (s : State) (w : Bool) (r : CsrReg) : (s.retireBefore w r).m.scratch = s.m.scratch := by
  unfold State.retireBefore; split <;> simp
@[simp] theorem State.retireBefore_m_epc (s : State) (w : Bool) (r : CsrReg) : (s.retireBefore w r).m.epc = s.m.epc := by
  unfold State.retireBefore; split <;> simp
@[simp] theorem State.retireBefore_m_cause (s : State) (w : Bool) (r : CsrReg) : (s.retireBefore w r).m.cause = s.m.cause := by
  unfold State.retireBefore; split <;> simp
@[simp] theorem State.retireBefore_m_tval (s : State) (w : Bool) (r : CsrReg) : (s.retireBefore w r).m.tval = s.m.tval := by
  unfold State.retireBefore; split <;> simp
@[simp] theorem State.retireBefore_m_tval2 (s : State) (w : Bool) (r : CsrReg) : (s.retireBefore w r).m.tval2 = s.m.tval2 := by
  unfold State.retireBefore; split <;> simp
@[simp] theorem State.retireBefore_m_tinst (s : State) (w : Bool) (r : CsrReg) : (s.retireBefore w r).m.tinst = s.m.tinst := by
  unfold State.retireBefore; split <;> simp
@[simp] theorem State.retireBefore_m_fiom (s : State) (w : Bool) (r : CsrReg) : (s.retireBefore w r).m.fiom = s.m.fiom := by
  unfold State.retireBefore; split <;> simp
@[simp] theorem State.retireBefore_m_pbmte (s : State) (w : Bool) (r : CsrReg) : (s.retireBefore w r).m.pbmte = s.m.pbmte := by
  unfold State.retireBefore; split <;> simp
@[simp] theorem State.retireBefore_m_cycle (s : State) (w : Bool) (r : CsrReg) : (s.retireBefore w r).m.cycle = s.m.cycle := by
  unfold State.retireBefore; split <;> simp
@[simp] theorem State.retireBefore_m_hpmcounter (s : State) (w : Bool) (r : CsrReg) : (s.retireBefore w r).m.hpmcounter = s.m.hpmcounter := by
  unfold State.retireBefore; split <;> simp
@[simp] theorem State.retireBefore_m_hpmevent (s : State) (w : Bool) (r : CsrReg) : (s.retireBefore w r).m.hpmevent = s.m.hpmevent := by
  unfold State.retireBefore; split <;> simp

@[simp] theorem State.freeHideleg_cfg (s : State) (b : State) : (s.freeHideleg b).cfg = s.cfg := by
  unfold State.freeHideleg; dsimp only; split <;> rfl
@[simp] theorem State.freeHideleg_x (s : State) (b : State) : (s.freeHideleg b).x = s.x := by
  unfold State.freeHideleg; dsimp only; split <;> rfl
@[simp] theorem State.freeHideleg_pc (s : State) (b : State) : (s.freeHideleg b).pc = s.pc := by
  unfold State.freeHideleg; dsimp only; split <;> rfl
@[simp] theorem State.freeHideleg_priv (s : State) (b : State) : (s.freeHideleg b).priv = s.priv := by
  unfold State.freeHideleg; dsimp only; split <;> rfl
@[simp] theorem State.freeHideleg_virt (s : State) (b : State) : (s.freeHideleg b).virt = s.virt := by
  unfold State.freeHideleg; dsimp only; split <;> rfl
@[simp] theorem State.freeHideleg_mxl (s : State) (b : State) : (s.freeHideleg b).mxl = s.mxl := by
  unfold State.freeHideleg; dsimp only; split <;> rfl
@[simp] theorem State.freeHideleg_ext (s : State) (b : State) : (s.freeHideleg b).ext = s.ext := by
  unfold State.freeHideleg; dsimp only; split <;> rfl
@[simp] theorem State.freeHideleg_mstatus (s : State) (b : State) : (s.freeHideleg b).mstatus = s.mstatus := by
  unfold State.freeHideleg; dsimp only; split <;> rfl
@[simp] theorem State.freeHideleg_m (s : State) (b : State) : (s.freeHideleg b).m = s.m := by
  unfold State.freeHideleg; dsimp only; split <;> rfl
@[simp] theorem State.freeHideleg_pmpcfg (s : State) (b : State) : (s.freeHideleg b).pmpcfg = s.pmpcfg := by
  unfold State.freeHideleg; dsimp only; split <;> rfl
@[simp] theorem State.freeHideleg_pmpaddr (s : State) (b : State) : (s.freeHideleg b).pmpaddr = s.pmpaddr := by
  unfold State.freeHideleg; dsimp only; split <;> rfl
@[simp] theorem State.freeHideleg_s (s : State) (b : State) : (s.freeHideleg b).s = s.s := by
  unfold State.freeHideleg; dsimp only; split <;> rfl
@[simp] theorem State.freeHideleg_vs (s : State) (b : State) : (s.freeHideleg b).vs = s.vs := by
  unfold State.freeHideleg; dsimp only; split <;> rfl
@[simp] theorem State.freeHideleg_lines (s : State) (b : State) : (s.freeHideleg b).lines = s.lines := by
  unfold State.freeHideleg; dsimp only; split <;> rfl
@[simp] theorem State.freeHideleg_mtime (s : State) (b : State) : (s.freeHideleg b).mtime = s.mtime := by
  unfold State.freeHideleg; dsimp only; split <;> rfl
@[simp] theorem State.freeHideleg_mtimecmp (s : State) (b : State) : (s.freeHideleg b).mtimecmp = s.mtimecmp := by
  unfold State.freeHideleg; dsimp only; split <;> rfl
@[simp] theorem State.freeHideleg_msip (s : State) (b : State) : (s.freeHideleg b).msip = s.msip := by
  unfold State.freeHideleg; dsimp only; split <;> rfl
@[simp] theorem State.freeHideleg_reservation (s : State) (b : State) : (s.freeHideleg b).reservation = s.reservation := by
  unfold State.freeHideleg; dsimp only; split <;> rfl
@[simp] theorem State.freeHideleg_stalled (s : State) (b : State) : (s.freeHideleg b).stalled = s.stalled := by
  unfold State.freeHideleg; dsimp only; split <;> rfl
@[simp] theorem State.freeHideleg_tc (s : State) (b : State) : (s.freeHideleg b).tc = s.tc := by
  unfold State.freeHideleg; dsimp only; split <;> rfl
@[simp] theorem State.freeHideleg_pmpStale (s : State) (b : State) : (s.freeHideleg b).pmpStale = s.pmpStale := by
  unfold State.freeHideleg; dsimp only; split <;> rfl
@[simp] theorem State.freeHideleg_pmpStaleG (s : State) (b : State) : (s.freeHideleg b).pmpStaleG = s.pmpStaleG := by
  unfold State.freeHideleg; dsimp only; split <;> rfl
@[simp] theorem State.freeHideleg_mem (s : State) (b : State) : (s.freeHideleg b).mem = s.mem := by
  unfold State.freeHideleg; dsimp only; split <;> rfl
@[simp] theorem State.freeHideleg_env (s : State) (b : State) : (s.freeHideleg b).env = s.env := by
  unfold State.freeHideleg; dsimp only; split <;> rfl

/-! ## Between instructions -/

@[simp] theorem State.tickCounters_cfg (s : State) : (s.tickCounters).cfg = s.cfg := rfl
@[simp] theorem State.tickCounters_x (s : State) : (s.tickCounters).x = s.x := rfl
@[simp] theorem State.tickCounters_pc (s : State) : (s.tickCounters).pc = s.pc := rfl
@[simp] theorem State.tickCounters_priv (s : State) : (s.tickCounters).priv = s.priv := rfl
@[simp] theorem State.tickCounters_virt (s : State) : (s.tickCounters).virt = s.virt := rfl
@[simp] theorem State.tickCounters_mxl (s : State) : (s.tickCounters).mxl = s.mxl := rfl
@[simp] theorem State.tickCounters_ext (s : State) : (s.tickCounters).ext = s.ext := rfl
@[simp] theorem State.tickCounters_mstatus (s : State) : (s.tickCounters).mstatus = s.mstatus := rfl
@[simp] theorem State.tickCounters_pmpcfg (s : State) : (s.tickCounters).pmpcfg = s.pmpcfg := rfl
@[simp] theorem State.tickCounters_pmpaddr (s : State) : (s.tickCounters).pmpaddr = s.pmpaddr := rfl
@[simp] theorem State.tickCounters_s (s : State) : (s.tickCounters).s = s.s := rfl
@[simp] theorem State.tickCounters_h (s : State) : (s.tickCounters).h = s.h := rfl
@[simp] theorem State.tickCounters_vs (s : State) : (s.tickCounters).vs = s.vs := rfl
@[simp] theorem State.tickCounters_lines (s : State) : (s.tickCounters).lines = s.lines := rfl
@[simp] theorem State.tickCounters_mtime (s : State) : (s.tickCounters).mtime = s.mtime := rfl
@[simp] theorem State.tickCounters_mtimecmp (s : State) : (s.tickCounters).mtimecmp = s.mtimecmp := rfl
@[simp] theorem State.tickCounters_msip (s : State) : (s.tickCounters).msip = s.msip := rfl
@[simp] theorem State.tickCounters_reservation (s : State) : (s.tickCounters).reservation = s.reservation := rfl
@[simp] theorem State.tickCounters_stalled (s : State) : (s.tickCounters).stalled = s.stalled := rfl
@[simp] theorem State.tickCounters_tc (s : State) : (s.tickCounters).tc = s.tc := rfl
@[simp] theorem State.tickCounters_pmpStale (s : State) : (s.tickCounters).pmpStale = s.pmpStale := rfl
@[simp] theorem State.tickCounters_pmpStaleG (s : State) : (s.tickCounters).pmpStaleG = s.pmpStaleG := rfl
@[simp] theorem State.tickCounters_mem (s : State) : (s.tickCounters).mem = s.mem := rfl
@[simp] theorem State.tickCounters_env (s : State) : (s.tickCounters).env = s.env := rfl

@[simp] theorem State.takeNmi_cfg (s : State) : (s.takeNmi).cfg = s.cfg := rfl
@[simp] theorem State.takeNmi_x (s : State) : (s.takeNmi).x = s.x := rfl
@[simp] theorem State.takeNmi_mxl (s : State) : (s.takeNmi).mxl = s.mxl := rfl
@[simp] theorem State.takeNmi_ext (s : State) : (s.takeNmi).ext = s.ext := rfl
@[simp] theorem State.takeNmi_pmpcfg (s : State) : (s.takeNmi).pmpcfg = s.pmpcfg := rfl
@[simp] theorem State.takeNmi_pmpaddr (s : State) : (s.takeNmi).pmpaddr = s.pmpaddr := rfl
@[simp] theorem State.takeNmi_s (s : State) : (s.takeNmi).s = s.s := rfl
@[simp] theorem State.takeNmi_h (s : State) : (s.takeNmi).h = s.h := rfl
@[simp] theorem State.takeNmi_vs (s : State) : (s.takeNmi).vs = s.vs := rfl
@[simp] theorem State.takeNmi_lines (s : State) : (s.takeNmi).lines = s.lines := rfl
@[simp] theorem State.takeNmi_mtime (s : State) : (s.takeNmi).mtime = s.mtime := rfl
@[simp] theorem State.takeNmi_mtimecmp (s : State) : (s.takeNmi).mtimecmp = s.mtimecmp := rfl
@[simp] theorem State.takeNmi_msip (s : State) : (s.takeNmi).msip = s.msip := rfl
@[simp] theorem State.takeNmi_reservation (s : State) : (s.takeNmi).reservation = s.reservation := rfl
@[simp] theorem State.takeNmi_tc (s : State) : (s.takeNmi).tc = s.tc := rfl
@[simp] theorem State.takeNmi_pmpStale (s : State) : (s.takeNmi).pmpStale = s.pmpStale := rfl
@[simp] theorem State.takeNmi_pmpStaleG (s : State) : (s.takeNmi).pmpStaleG = s.pmpStaleG := rfl
@[simp] theorem State.takeNmi_mem (s : State) : (s.takeNmi).mem = s.mem := rfl
@[simp] theorem State.takeNmi_env (s : State) : (s.takeNmi).env = s.env := rfl
@[simp] theorem State.takeNmi_draws (s : State) : (s.takeNmi).draws = s.draws := rfl

end Sys2Proof.Machine
end

