-- ==== Sys2Proof/Laws/Memory.lean ====
section
/-! SUPPORT. The laws of memory: a read after a write, and the canonical form, kept by every memory operation. -/

namespace Sys2Proof.Machine

open Sys2Proof

/-! ## The cell list -/

theorem Memory.read_of_lt (l : List Host.Cell) (b k : Nat) (h : Memory.wfAbove b l) (hk : k ≤ b) :
    Memory.read l k = unlistedByte := by
  induction l generalizing b with
  | nil => rfl
  | cons c t ih =>
    obtain ⟨a, v⟩ := c
    simp only [Memory.wfAbove, Bool.and_eq_true, decide_eq_true_eq] at h
    have hne : k ≠ a := by omega
    simp only [Memory.read, if_neg hne]
    exact ih a h.2 (by omega)

theorem Memory.wfAbove_mono (l : List Host.Cell) (b c : Nat) (h : Memory.wfAbove b l) (hc : c ≤ b) :
    Memory.wfAbove c l := by
  cases l with
  | nil => rfl
  | cons p t =>
    obtain ⟨a, v⟩ := p
    simp only [Memory.wfAbove, Bool.and_eq_true, decide_eq_true_eq] at h ⊢
    exact ⟨⟨by omega, h.1.2⟩, h.2⟩

theorem Memory.wfAbove_write (l : List Host.Cell) (b k : Nat) (v : Byte) (h : Memory.wfAbove b l) (hk : b < k) :
    Memory.wfAbove b (Memory.write l k v) := by
  induction l generalizing b with
  | nil =>
    simp only [Memory.write]
    split
    · rfl
    · simp [Memory.wfAbove, *]
  | cons c t ih =>
    obtain ⟨a, w⟩ := c
    simp only [Memory.wfAbove, Bool.and_eq_true, decide_eq_true_eq] at h
    obtain ⟨⟨h1, h2⟩, h3⟩ := h
    simp only [Memory.write]
    split
    · split
      · simp [Memory.wfAbove, *]
      · simp_all [Memory.wfAbove]
    · split
      · split
        · exact Memory.wfAbove_mono t a b h3 (by omega)
        · simp_all [Memory.wfAbove]
      · have := ih a h3 (by omega)
        simp_all [Memory.wfAbove]

/-- A write keeps the canonical form. -/
theorem Memory.wf_write (l : List Host.Cell) (k : Nat) (v : Byte) (h : Memory.wf l) :
    Memory.wf (Memory.write l k v) := by
  cases l with
  | nil =>
    simp only [Memory.write]
    split
    · rfl
    · simp [Memory.wf, Memory.wfAbove, *]
  | cons c t =>
    obtain ⟨a, w⟩ := c
    simp only [Memory.wf, Bool.and_eq_true] at h
    obtain ⟨h1, h2⟩ := h
    simp only [Memory.write]
    split
    · split
      · simp [Memory.wf, *]
      · simp_all [Memory.wf, Memory.wfAbove]
    · split
      · split
        · cases t with
          | nil => rfl
          | cons d u => obtain ⟨p, q⟩ := d; simp_all [Memory.wf, Memory.wfAbove]
        · simp_all [Memory.wf]
      · have := Memory.wfAbove_write t a k v h2 (by omega)
        simp_all [Memory.wf]

theorem Memory.wf_of_wfAbove (l : List Host.Cell) (b : Nat) (h : Memory.wfAbove b l) : Memory.wf l := by
  cases l with
  | nil => rfl
  | cons c t => obtain ⟨a, w⟩ := c; simp_all [Memory.wf, Memory.wfAbove]

/-- A canonical list read after a write, at every address. -/
theorem Memory.read_write_above (l : List Host.Cell) (b k : Nat) (v : Byte) (j : Nat)
    (h : Memory.wfAbove b l) : Memory.read (Memory.write l k v) j = if j = k then v else Memory.read l j := by
  induction l generalizing b with
  | nil =>
    simp only [Memory.write]
    split <;> by_cases hj : j = k <;> simp_all [Memory.read]
  | cons c t ih =>
    obtain ⟨a, w⟩ := c
    simp only [Memory.wfAbove, Bool.and_eq_true, decide_eq_true_eq] at h
    obtain ⟨⟨h1, h2⟩, h3⟩ := h
    simp only [Memory.write]
    split
    · have hread : Memory.read t k = unlistedByte := Memory.read_of_lt t a k h3 (by omega)
      split <;> by_cases hj : j = k <;> (simp_all [Memory.read]; try omega)
    · split
      · subst_vars
        have hread : Memory.read t a = unlistedByte := Memory.read_of_lt t a a h3 (by omega)
        split <;> by_cases hj : j = a <;> simp_all [Memory.read]
      · have := ih a h3
        by_cases hj : j = k <;> by_cases hja : j = a <;> simp_all [Memory.read]

theorem Memory.read_write (l : List Host.Cell) (k : Nat) (v : Byte) (j : Nat) (h : Memory.wf l) :
    Memory.read (Memory.write l k v) j = if j = k then v else Memory.read l j := by
  cases l with
  | nil =>
    simp only [Memory.write]
    split <;> by_cases hj : j = k <;> simp_all [Memory.read]
  | cons c t =>
    obtain ⟨a, w⟩ := c
    simp only [Memory.wf, Bool.and_eq_true] at h
    obtain ⟨h1, h2⟩ := h
    simp only [Memory.write]
    split
    · have hread : Memory.read t k = unlistedByte := Memory.read_of_lt t a k h2 (by omega)
      split <;> by_cases hj : j = k <;> (simp_all [Memory.read]; try omega)
    · split
      · subst_vars
        have hread : Memory.read t a = unlistedByte := Memory.read_of_lt t a a h2 (by omega)
        split <;> by_cases hj : j = a <;> simp_all [Memory.read]
      · have := Memory.read_write_above t a k v j h2
        by_cases hj : j = k <;> by_cases hja : j = a <;> simp_all [Memory.read]

/-! ## The state's memory -/

theorem State.wf_writePhys (s : State) (a : Nat) (b : Byte) (h : Memory.wf s.mem) :
    Memory.wf (s.writePhys a b).mem := by
  unfold State.writePhys
  repeat (first | exact h | exact Memory.wf_write _ _ _ h | split)

theorem State.wf_writeBytes (l : List Byte) (s : State) (a : Nat) (h : Memory.wf s.mem) :
    Memory.wf (s.writeBytes a l).mem := by
  induction l generalizing s a with
  | nil => exact h
  | cons b t ih => exact ih _ _ (State.wf_writePhys s a b h)

theorem State.wf_writePhysN (s : State) (big : Bool) (a n : Nat) (v : Word) (h : Memory.wf s.mem) :
    Memory.wf (s.writePhysN big a n v).mem := State.wf_writeBytes _ _ _ h

theorem State.wf_writeAt (pas : List Nat) (l : List Byte) (s : State) (h : Memory.wf s.mem) :
    Memory.wf (s.writeAt pas l).mem := by
  induction pas generalizing s l with
  | nil => cases l <;> exact h
  | cons p t ih =>
    cases l with
    | nil => exact h
    | cons b u => exact ih u _ (State.wf_writePhys s p b h)

/-- `State.reset` lists nothing. -/
theorem State.wf_reset : Memory.wf State.reset.mem := rfl

theorem State.readPhys_plain (s : State) (a : Nat) (h : s.plainAddr a) : s.readPhys a = Memory.read s.mem a := by
  simp only [State.plainAddr, Bool.and_eq_true, Bool.not_eq_true'] at h
  simp [State.readPhys, h]

theorem State.writePhys_plain (s : State) (a : Nat) (b : Byte) (h : s.plainAddr a) :
    s.writePhys a b = { s with mem := Memory.write s.mem a b } := by
  simp only [State.plainAddr, Bool.and_eq_true, Bool.not_eq_true'] at h
  simp [State.writePhys, h]

/-- A plain byte written is the byte read, and every other address reads as before. -/
theorem State.readPhys_writePhys_plain (s : State) (a : Nat) (b : Byte) (j : Nat) (hw : Memory.wf s.mem)
    (h : s.plainAddr a) : (s.writePhys a b).readPhys j = if j = a then b else s.readPhys j := by
  rw [State.writePhys_plain s a b h]
  by_cases hj : j = a
  · subst hj
    rw [if_pos rfl]
    have hp : State.plainAddr { s with mem := Memory.write s.mem j b } j := h
    rw [State.readPhys_plain _ _ hp]
    simp [Memory.read_write _ _ _ _ hw]
  · rw [if_neg hj]
    simp only [State.readPhys, Memory.read_write _ _ _ _ hw, if_neg hj]

end Sys2Proof.Machine
end

