-- ==== Sys2Proof/Laws/Access.lean ====
section
/-! SUPPORT. Once and for all, what translation, fetch, load and store can do to the state: they touch the
translation cache, the draw counter and physical memory, and nothing else; and they keep the canonical form of
memory. -/

namespace Sys2Proof.Machine

open Sys2Proof

/-- `t` is `s` but for the translation cache, the draw counter, memory and the memory-mapped devices. -/
structure Touched (s t : State) : Prop where
  same : t = { s with
    tc := t.tc, draws := t.draws, mem := t.mem, mtime := t.mtime, mtimecmp := t.mtimecmp, msip := t.msip }
  wf : Memory.wf s.mem → Memory.wf t.mem

theorem Touched.refl (s : State) : Touched s s := ⟨rfl, id⟩

theorem Touched.trans {s t u : State} (h : Touched s t) (k : Touched t u) : Touched s u := by
  refine ⟨?_, fun w => k.wf (h.wf w)⟩
  have hk := k.same
  have hh := h.same
  rw [hk]
  rw [hh]

theorem Touched.cfg {s t : State} (h : Touched s t) : t.cfg = s.cfg := by
  rw [h.same]

theorem Touched.writePhys (s : State) (a : Nat) (b : Byte) : Touched s (s.writePhys a b) := by
  refine ⟨?_, State.wf_writePhys s a b⟩
  unfold State.writePhys
  repeat (first | rfl | split)

theorem Touched.writeBytes (l : List Byte) (s : State) (a : Nat) : Touched s (s.writeBytes a l) := by
  induction l generalizing s a with
  | nil => exact Touched.refl s
  | cons b t ih => exact (Touched.writePhys s a b).trans (ih _ _)

theorem Touched.writePhysN (s : State) (big : Bool) (a n : Nat) (v : Word) :
    Touched s (s.writePhysN big a n v) := Touched.writeBytes _ _ _

theorem Touched.writeAt (pas : List Nat) (l : List Byte) (s : State) : Touched s (s.writeAt pas l) := by
  induction pas generalizing s l with
  | nil => cases l <;> exact Touched.refl s
  | cons p t ih =>
    cases l with
    | nil => exact Touched.refl s
    | cons b u => exact (Touched.writePhys s p b).trans (ih u _)

/-- What a translation leaves: a touched state, whose memory and devices are untouched unless the hardware
updates A and D bits (R562). -/
structure Walked (s t : State) : Prop extends Touched s t where
  calm : s.cfg.adUpdate = .fault →
    t.mem = s.mem ∧ t.mtime = s.mtime ∧ t.mtimecmp = s.mtimecmp ∧ t.msip = s.msip

theorem Walked.refl (s : State) : Walked s s := ⟨Touched.refl s, fun _ => ⟨rfl, rfl, rfl, rfl⟩⟩

theorem Walked.trans {s t u : State} (h : Walked s t) (k : Walked t u) : Walked s u := by
  refine ⟨h.toTouched.trans k.toTouched, fun e => ?_⟩
  obtain ⟨a1, a2, a3, a4⟩ := h.calm e
  obtain ⟨b1, b2, b3, b4⟩ := k.calm (by rw [h.cfg]; exact e)
  exact ⟨b1.trans a1, b2.trans a2, b3.trans a3, b4.trans a4⟩

/-- A write of page-table bits happens only where the hardware updates them. -/
theorem Walked.of_hardware {s t : State} (h : Touched s t) (e : s.cfg.adUpdate = .hardware) : Walked s t :=
  ⟨h, fun f => by rw [e] at f; cases f⟩

/-- The state a partial result leaves. -/
def Res.state {α : Type} : Res α → State
  | .ok _ s => s
  | .exn _ s => s

@[simp] theorem Res.state_ok {α : Type} (a : α) (s : State) : (Res.ok a s).state = s := rfl
@[simp] theorem Res.state_exn {α : Type} (e : Excn) (s : State) : (Res.exn e s : Res α).state = s := rfl

theorem Res.walked_bind {α β : Type} {s : State} {r : Res α} {f : α → State → Res β}
    (h : Walked s r.state) (k : ∀ a t, Walked t (f a t).state) : Walked s (r.bind f).state := by
  cases r with
  | ok a t => exact h.trans (k a t)
  | exn e t => exact h

theorem Walked.drawPte (s : State) (st : Stage) (q va sh : Nat) : Walked s (s.drawPte st q va sh).2 := by
  unfold State.drawPte
  split
  · exact Walked.refl s
  · exact ⟨⟨rfl, id⟩, fun _ => ⟨rfl, rfl, rfl, rfl⟩⟩

theorem Walked.fillTc (s : State) (st : Stage) (q va sh : Nat) (g : Bool) (p : Word) (spec : Bool) :
    Walked s (s.fillTc st q va sh g p spec) := by
  unfold State.fillTc
  split
  · exact Walked.refl s
  · exact ⟨⟨rfl, id⟩, fun _ => ⟨rfl, rfl, rfl, rfl⟩⟩

theorem Walked.walkOn (w : Walk) (level : Nat) (g : Bool) (p : Word) (update : State → Res LevelEnd) (s : State)
    (hu : s.cfg.adUpdate = .hardware → Walked s (update s).state) :
    Walked s (walkOn w level g p update s).state := by
  unfold Machine.walkOn
  split
  · exact Walked.refl s
  · exact Walked.refl s
  · split
    · exact Walked.refl s
    · split
      · exact Walked.refl s
      · split
        · exact Walked.refl s
        · exact hu (by assumption)

theorem Walked.writeBack (w : Walk) (level pa : Nat) (p : Word) (s : State) (e : s.cfg.adUpdate = .hardware) :
    Walked s (writeBack w level pa p s).state :=
  Walked.of_hardware (Touched.writePhysN s _ _ _ _) e

theorem Walked.walkRead (w : Walk) (level q : Nat) (g : Bool) (m : Mapping) (update : Word → State → Res LevelEnd)
    (s : State) (hu : ∀ p t, t.cfg.adUpdate = .hardware → Walked t (update p t).state) :
    Walked s (walkRead w level q g m update s).state := by
  unfold Machine.walkRead
  split
  · exact Walked.refl s
  · exact (Walked.fillTc s _ _ _ _ _ _ _).trans (Walked.walkOn _ _ _ _ _ _ (hu _ _))

theorem Walked.walkUpdate (w : Walk) (toPhys : State → Nat → Bool → Res Mapping)
    (hp : ∀ s q b, Walked s (toPhys s q b).state) (level q : Nat) (again : Mapping → State → Res LevelEnd) (p : Word)
    (s : State) (ha : ∀ m t, t.cfg.adUpdate = .hardware → Walked t (again m t).state)
    (e : s.cfg.adUpdate = .hardware) : Walked s (walkUpdate w toPhys level q again p s).state := by
  unfold Machine.walkUpdate
  have h := hp s q true
  cases hr : toPhys s q true with
  | exn x t => rw [hr] at h; exact h
  | ok m t =>
    rw [hr] at h
    have h : Walked s t := h
    have ht : t.cfg.adUpdate = .hardware := by rw [h.cfg]; exact e
    refine Walked.trans h ?_
    dsimp only [Res.bind]
    split
    · exact Walked.refl t
    · split
      · exact Walked.writeBack w _ _ _ t ht
      · exact ha m t ht

theorem Walked.walkPass (w : Walk) (toPhys : State → Nat → Bool → Res Mapping)
    (hp : ∀ s q b, Walked s (toPhys s q b).state) (level q : Nat) (g : Bool) (again : Mapping → State → Res LevelEnd)
    (s : State) (ha : ∀ m t, t.cfg.adUpdate = .hardware → Walked t (again m t).state) :
    Walked s (walkPass w toPhys level q g again s).state := by
  unfold Machine.walkPass
  dsimp only
  have hd := Walked.drawPte s w.stage q w.va (levelShift w.stage.scheme level)
  generalize s.drawPte w.stage q w.va (levelShift w.stage.scheme level) = d at hd ⊢
  refine Walked.trans hd ?_
  split
  · exact Walked.walkOn _ _ _ _ _ _ fun e => Walked.walkUpdate w toPhys hp _ _ _ _ _ ha e
  · exact Res.walked_bind (hp d.2 q false) fun m t =>
      Walked.walkRead w _ _ _ _ _ t fun p u e => Walked.walkUpdate w toPhys hp _ _ _ _ u ha e

theorem Walked.walkEntry (w : Walk) (toPhys : State → Nat → Bool → Res Mapping)
    (hp : ∀ s q b, Walked s (toPhys s q b).state) (level q : Nat) (g : Bool) (s : State) :
    Walked s (walkEntry w toPhys level q g s).state :=
  Walked.walkPass w toPhys hp _ _ _ _ s fun _ t _ =>
    Walked.walkPass w toPhys hp _ _ _ _ t fun _ u _ =>
      Walked.walkRead w _ _ _ _ _ u fun _ v e => Walked.writeBack w _ _ _ v e

theorem Walked.walkFrom (w : Walk) (toPhys : State → Nat → Bool → Res Mapping)
    (hp : ∀ s q b, Walked s (toPhys s q b).state) (level a : Nat) (g : Bool) (s : State) :
    Walked s (walkFrom w toPhys level a g s).state := by
  induction level generalizing a g s with
  | zero =>
    refine Res.walked_bind (Walked.walkEntry w toPhys hp _ _ _ s) fun e t => ?_
    split <;> exact Walked.refl t
  | succ n ih =>
    refine Res.walked_bind (Walked.walkEntry w toPhys hp _ _ _ s) fun e t => ?_
    split
    · exact Walked.refl t
    · exact ih _ _ t

theorem Walked.walkRoot (w : Walk) (toPhys : State → Nat → Bool → Res Mapping)
    (hp : ∀ s q b, Walked s (toPhys s q b).state) (s : State) : Walked s (walkRoot w toPhys s).state :=
  Walked.walkFrom w toPhys hp _ _ _ s

theorem Walked.gTranslate (s : State) (gpa : Nat) (k : AccKind) (hlvx : Bool) (i : Option Bool) (o : Orig)
    (spec : Bool) : Walked s (s.gTranslate gpa k hlvx i o spec).state := by
  unfold State.gTranslate
  split
  · exact Walked.refl s
  · dsimp only
    split
    · exact Walked.refl s
    · exact Walked.walkRoot _ _ (fun t _ _ => by exact Walked.refl t) s

theorem Walked.vsTranslate (s : State) (k : AccKind) (hlvx : Bool) (p : Priv) (o : Orig) (spec : Bool) :
    Walked s (s.vsTranslate k hlvx p o spec).state := by
  unfold State.vsTranslate
  split
  · exact Walked.refl s
  · split
    · exact Walked.refl s
    · refine Walked.walkRoot _ _ (fun t q b => ?_) s
      exact Walked.gTranslate t _ _ _ _ _ _

theorem Walked.translate1 (s : State) (k : AccKind) (hlvx : Bool) (p : Priv) (o : Orig) (spec : Bool) :
    Walked s (s.translate1 k hlvx p o spec).state := by
  unfold State.translate1
  split
  · exact Walked.refl s
  · split
    · exact Walked.refl s
    · exact Res.walked_bind (Walked.walkRoot _ _ (fun t _ _ => by exact Walked.refl t) s) fun _ t => Walked.refl t

theorem Walked.translate2 (s : State) (k : AccKind) (hlvx : Bool) (p : Priv) (o : Orig) (spec : Bool) :
    Walked s (s.translate2 k hlvx p o spec).state :=
  Res.walked_bind (Walked.vsTranslate s _ _ _ _ _) fun _ s1 =>
    Res.walked_bind (Walked.gTranslate s1 _ _ _ _ _ _) fun _ s2 => Walked.refl s2

theorem Walked.translate (s : State) (k : AccKind) (hlvx : Bool) (p : Priv) (v : Bool) (o : Orig) :
    Walked s (s.translate k hlvx p v o).state := by
  unfold State.translate
  split
  · exact Walked.refl s
  · exact Walked.translate1 s _ _ _ _ _
  · exact Walked.translate2 s _ _ _ _ _

theorem Walked.locate (s : State) (a : Acc) (ea va : Word) (n : Nat) : Walked s (s.locate a ea va n).state := by
  unfold State.locate
  refine Res.walked_bind (Walked.translate s _ _ _ _ _) fun t s1 => ?_
  split <;> exact Walked.refl s1

theorem Walked.locatePortion (s : State) (a : Acc) (ea : Word) (off n : Nat) :
    Walked s (s.locatePortion a ea off n).state := by
  unfold State.locatePortion
  refine Res.walked_bind (Walked.translate s _ _ _ _ _) fun t s1 => ?_
  split <;> exact Walked.refl s1

theorem Walked.locateBytes (s : State) (a : Acc) (ea : Word) : Walked s (s.locateBytes a ea).state := by
  unfold State.locateBytes
  refine Res.walked_bind (Walked.locatePortion s _ _ _ _) fun l s1 => ?_
  split
  · exact Walked.refl s1
  · exact Res.walked_bind (Walked.locatePortion s1 _ _ _ _) fun r s2 => Walked.refl s2

theorem Walked.resolve (s : State) (a : Acc) (va : Word) : Walked s (s.resolve a va).state := by
  unfold State.resolve
  dsimp only
  split
  · exact Res.walked_bind (Walked.locate s _ _ _ _) fun _ s1 => Walked.refl s1
  · split
    · exact Walked.refl s
    · refine Res.walked_bind (Walked.locateBytes s _ _) fun l s1 => ?_
      split
      · exact Walked.refl s1
      · split <;> exact Walked.refl s1

theorem Walked.load (s : State) (a : Acc) (va : Word) : Walked s (s.load a va).state :=
  Res.walked_bind (Walked.resolve s a va) fun _ s1 => Walked.refl s1

theorem Touched.store (s : State) (a : Acc) (va v : Word) : Touched s (s.store a va v).state := by
  have h := (Walked.resolve s a va).toTouched
  unfold State.store
  cases hr : s.resolve a va with
  | exn e t => rw [hr] at h; exact h
  | ok pas t => rw [hr] at h; exact h.trans (Touched.writeAt _ _ t)

theorem Walked.fetchParcel (s : State) (va : Word) (n : Nat) : Walked s (s.fetchParcel va n).state :=
  Res.walked_bind (Walked.resolve s _ va) fun _ s1 => Walked.refl s1

theorem Walked.fetch (s : State) : Walked s s.fetch.state := by
  unfold State.fetch
  split
  · exact Walked.fetchParcel s _ _
  · refine Res.walked_bind (Walked.fetchParcel s _ _) fun lo s1 => ?_
    split
    · split
      · exact Walked.refl s1
      · exact Res.walked_bind (Walked.fetchParcel s1 _ _) fun _ s2 => Walked.refl s2
    · exact Walked.refl s1

theorem Walked.speculate (s : State) (k : SpecWalk) : Walked s (s.speculate k) := by
  unfold State.speculate
  dsimp only
  repeat (first | exact Walked.refl s | exact ⟨⟨rfl, id⟩, fun _ => ⟨rfl, rfl, rfl, rfl⟩⟩ | split)

/-! ## Loads and stores of instructions -/

/-- A load instruction, once resolved: `rd` takes the extended value and the instruction retires. -/
theorem State.loadTo_ok (s t : State) (w : BitVec 32) (a : Acc) (rd : RegIdx) (va : Word) (ext : Word → Word)
    (pas : List Nat) (h : s.resolve a va = .ok pas t) :
    s.loadTo w a rd va ext =
      .next (t.writeX rd (ext (ofBytes (inOrder (s.bigEndian a) (t.readAt pas))))).retire := by
  simp [State.loadTo, State.load, h, Res.bind]

/-- A load instruction whose access raises takes the exception; `rd` is not written. -/
theorem State.loadTo_exn (s t : State) (w : BitVec 32) (a : Acc) (rd : RegIdx) (va : Word) (ext : Word → Word)
    (e : Excn) (h : s.resolve a va = .exn e t) : s.loadTo w a rd va ext = .next (t.takeException w e) := by
  simp [State.loadTo, State.load, h, Res.bind]

/-- A store instruction, once resolved: the bytes are written and the instruction retires. -/
theorem State.storeFrom_ok (s t : State) (w : BitVec 32) (a : Acc) (va v : Word) (pas : List Nat)
    (h : s.resolve a va = .ok pas t) :
    s.storeFrom w a va v = .next (t.writeAt pas (inOrder (s.bigEndian a) (bytesLE v a.n))).retire := by
  simp [State.storeFrom, State.store, h, Res.bind]

theorem State.storeFrom_exn (s t : State) (w : BitVec 32) (a : Acc) (va v : Word) (e : Excn)
    (h : s.resolve a va = .exn e t) : s.storeFrom w a va v = .next (t.takeException w e) := by
  simp [State.storeFrom, State.store, h, Res.bind]

end Sys2Proof.Machine
end

