-- ==== Sys2Proof/Laws/Ops.lean ====
section
/-! SUPPORT. One lemma per shared operation of the meanings, saying everything it can do. -/

namespace Sys2Proof.Machine

open Sys2Proof

/-! ## Registers and retirement -/

@[simp] theorem State.readX_zero (s : State) : s.readX 0 = 0 := rfl

theorem State.readX_ne (s : State) (r : RegIdx) (h : r ≠ 0) :
    s.readX r = s.x[r.toNat]'(by have := r.isLt; omega) := by
  unfold State.readX
  rw [if_neg h]

theorem State.writeX_x (s : State) (rd : RegIdx) (v : Word) (h : rd ≠ 0) :
    (s.writeX rd v).x = s.x.set rd.toNat (sxTo s.xlen v) (by have := rd.isLt; omega) := by
  unfold State.writeX
  rw [if_neg h]

/-- A register read after a register write. -/
theorem State.readX_writeX (s : State) (rd r : RegIdx) (v : Word) :
    (s.writeX rd v).readX r = if r = rd ∧ r ≠ 0 then sxTo s.xlen v else s.readX r := by
  by_cases h0 : r = 0
  · subst h0
    rw [if_neg fun h => h.2 rfl, State.readX_zero, State.readX_zero]
  by_cases hrd : rd = 0
  · subst hrd
    rw [State.writeX, if_pos rfl, if_neg fun h => h0 h.1]
  · rw [State.readX_ne _ _ h0, State.readX_ne _ _ h0]
    simp only [State.writeX_x s rd v hrd]
    by_cases hr : r = rd
    · subst hr
      rw [if_pos ⟨rfl, h0⟩, Vector.getElem_set_self]
    · have hn : rd.toNat ≠ r.toNat := fun h => hr (BitVec.eq_of_toNat_eq h.symm)
      rw [if_neg fun h => hr h.1]
      exact Vector.getElem_set_ne _ _ hn

/-- Reading a register sees only the register file. -/
theorem State.readX_congr (s t : State) (r : RegIdx) (h : t.x = s.x) : t.readX r = s.readX r := by
  simp [State.readX, h]

/-- The width in effect depends on the mode and the XL fields only. -/
theorem State.xlen_congr (s t : State) (hc : t.cfg = s.cfg) (he : t.ext = s.ext) (hp : t.priv = s.priv)
    (hv : t.virt = s.virt) (hx : t.mxl = s.mxl) (hm : t.mstatus = s.mstatus) (hh : t.h = s.h) (hs : t.vs = s.vs) :
    t.xlen = s.xlen := by
  have h1 : t.sxlen = s.sxlen := by simp only [State.sxlen, hx, hc, hm]
  have h0 : t.aboveUser = s.aboveUser := by
    unfold State.aboveUser State.hasS State.hasExt
    rw [he, h1, hx]
  have hf : t.uxlForced = s.uxlForced := by simp only [State.uxlForced, h0, hc]
  have h2 : t.uxlen = s.uxlen := by simp only [State.uxlen, hf, h0, hc, hm, hx]
  have h3 : t.vsxlen = s.vsxlen := by simp only [State.vsxlen, h1, hc, hh]
  have h4 : t.vuxlen = s.vuxlen := by simp only [State.vuxlen, h3, hc, hs]
  simp only [State.xlen, State.xlenOf, State.mxlen, h1, h2, h3, h4, hx, hp, hv]

/-- UXLEN case by case: where MXLEN is 32 it is 32 (R118); else 32 where SXLEN forces it (R254), or what UXL says. -/
theorem State.uxlen_cases (s : State) :
    (s.mxl = .x32 ∧ s.uxlen = .x32) ∨ (s.mxl = .x64 ∧ s.uxlForced = true ∧ s.uxlen = .x32)
      ∨ (s.mxl = .x64 ∧ s.uxlForced = false ∧ s.uxlen = pickXl s.cfg.uxl s.mstatus.uxl s.aboveUser) := by
  unfold State.uxlen
  cases s.mxl <;> cases s.uxlForced <;> simp

/-- Zero-extension from a width keeps the bits below it. -/
theorem zxTo_getLsbD (x : Xlen) (w : Word) (i : Nat) : (zxTo x w).getLsbD i = (decide (i < x.bits) && w.getLsbD i) := by
  cases x with
  | x32 =>
    by_cases h : i < 32
    · have h64 : i < 64 := by omega
      simp [zxTo, Xlen.bits, h, h64]
    · simp [zxTo, Xlen.bits, h]
  | x64 =>
    by_cases h : i < 64
    · simp [zxTo, Xlen.bits, h]
    · simp [zxTo, Xlen.bits, h, BitVec.getLsbD_of_ge _ _ (Nat.le_of_not_lt h)]

/-- A line of `hgeip` is seen, by an implicit read as by an explicit one, below HSXLEN and GEILEN + 1 alone (R50, R356). -/
theorem State.hgeip_getLsbD (s : State) (i : Nat) :
    s.hgeip.getLsbD i = (decide (i < s.sxlen.bits) && (s.lines.hgeip.getLsbD i && s.geiMask.getLsbD i)) := by
  simp [State.hgeip, zxTo_getLsbD]

@[simp] theorem State.xlen_writeX (s : State) (r : RegIdx) (v : Word) : (s.writeX r v).xlen = s.xlen :=
  State.xlen_congr _ _ (by simp) (by simp) (by simp) (by simp) (by simp) (by simp) (by simp) (by simp)

@[simp] theorem State.setPc_pc (s : State) (v : Word) : (s.setPc v).pc = sxTo s.xlen v := rfl

@[simp] theorem State.retireTo_pc (s : State) (v : Word) : (s.retireTo v).pc = sxTo s.xlen v := by
  simp [State.retireTo]

@[simp] theorem State.retire_pc (s : State) : s.retire.pc = sxTo s.xlen (s.pc + 4) := by
  simp [State.retire]

/-- `minstret` counts the instruction unless it is inhibited. -/
theorem State.countRetired_instret (s : State) :
    s.countRetired.m.instret = if s.m.countinhibit.getLsbD 2 then s.m.instret else s.m.instret + 1 := by
  unfold State.countRetired
  split <;> rfl

theorem State.retireTo_instret (s : State) (v : Word) :
    (s.retireTo v).m.instret = if s.m.countinhibit.getLsbD 2 then s.m.instret else s.m.instret + 1 := by
  simp [State.retireTo, State.countRetired_instret]

theorem State.retire_instret (s : State) :
    s.retire.m.instret = if s.m.countinhibit.getLsbD 2 then s.m.instret else s.m.instret + 1 :=
  State.retireTo_instret s _

/-- Retiring changes `pc` and `minstret` and nothing else. -/
theorem State.retireTo_same (s : State) (v : Word) :
    s.retireTo v = { s with pc := sxTo s.xlen v, m := { s.m with instret := (s.retireTo v).m.instret } } := by
  unfold State.retireTo State.countRetired
  split <;> rfl

theorem State.readX_retireTo (s : State) (v : Word) (r : RegIdx) : (s.retireTo v).readX r = s.readX r :=
  State.readX_congr _ _ _ (by simp)

theorem State.readX_retire (s : State) (r : RegIdx) : s.retire.readX r = s.readX r :=
  State.readX_congr _ _ _ (by simp)

/-- A register write changes the register file and nothing else. -/
theorem State.writeX_same (s : State) (r : RegIdx) (v : Word) : s.writeX r v = { s with x := (s.writeX r v).x } := by
  unfold State.writeX
  split <;> rfl

/-- A byte of memory depends on memory and the devices only. -/
theorem State.readPhys_congr (s t : State) (a : Nat) (hc : t.cfg = s.cfg) (hm : t.mem = s.mem)
    (h1 : t.mtime = s.mtime) (h2 : t.mtimecmp = s.mtimecmp) (h3 : t.msip = s.msip) :
    t.readPhys a = s.readPhys a := by
  simp [State.readPhys, *]

/-- A computation: the destination takes the result, `pc` and `minstret` advance, nothing else changes. -/
theorem State.compute_spec (s : State) (rd : RegIdx) (v : Word) :
    ∃ t, s.compute rd v = .next t ∧ (∀ r, t.readX r = if r = rd ∧ r ≠ 0 then sxTo s.xlen v else s.readX r)
      ∧ t = { s with x := t.x, pc := sxTo s.xlen (s.pc + 4), m := { s.m with instret := t.m.instret } } := by
  refine ⟨_, rfl, fun r => ?_, ?_⟩
  · rw [State.readX_retire, State.readX_writeX]
  · unfold State.retire State.retireTo State.countRetired State.setPc State.writeX
    split <;> split <;> rfl

/-! ## Permission -/

/-- A guarded meaning runs, or takes one of the two exceptions. -/
theorem State.guarded_cases (s : State) (w : BitVec 32) (p : Permit) (k : State → Out) :
    (p = .ok ∧ s.guarded w p k = k s) ∨ (p = .illegal ∧ s.guarded w p k = .next (s.takeIllegal w))
      ∨ (p = .virt ∧ s.guarded w p k = .next (s.takeVirtual w)) := by
  cases p
  · exact .inl ⟨rfl, rfl⟩
  · exact .inr (.inl ⟨rfl, rfl⟩)
  · exact .inr (.inr ⟨rfl, rfl⟩)

@[simp] theorem State.guarded_ok (s : State) (w : BitVec 32) (k : State → Out) : s.guarded w .ok k = k s := rfl
@[simp] theorem State.guarded_illegal (s : State) (w : BitVec 32) (k : State → Out) :
    s.guarded w .illegal k = .next (s.takeIllegal w) := rfl
@[simp] theorem State.guarded_virt (s : State) (w : BitVec 32) (k : State → Out) :
    s.guarded w .virt k = .next (s.takeVirtual w) := rfl

/-! ## Jumps -/

/-- A jump reaches its target or raises instruction address misaligned. -/
theorem State.jump_cases (s : State) (w : BitVec 32) (rd : RegIdx) (target : Word) :
    (s.aligned target = true ∧ s.jump w rd target = .next ((s.writeX rd (s.pc + 4)).retireTo target))
      ∨ (s.aligned target = false ∧ s.jump w rd target =
          .next (s.takeException w { code := .instrMisaligned, tval := target, guest := s.virt, ea := target })) := by
  unfold State.jump
  cases h : s.aligned target <;> simp

/-! ## Trap entry -/

/-- A trap ends in M-mode, in S-mode with V = 0, or in VS-mode. -/
theorem State.enter_cases (s : State) (d : Dest) (t : TrapInfo) :
    (d = .m ∧ s.enter d t = s.enterM t) ∨ (d = .s ∧ s.enter d t = s.enterS t)
      ∨ (d = .vs ∧ s.enter d t = s.enterVS t) := by
  cases d
  · exact .inl ⟨rfl, rfl⟩
  · exact .inr (.inl ⟨rfl, rfl⟩)
  · exact .inr (.inr ⟨rfl, rfl⟩)

/-- Where a synchronous exception goes, and what that presupposes. -/
theorem State.exceptionTarget_cases (s : State) (c : ExcCode) :
    s.exceptionTarget c = .m
      ∨ (s.exceptionTarget c = .s ∧ s.priv ≠ .machine ∧ s.hasS = true ∧ s.medeleg.getLsbD c.code = true
          ∧ (s.hasH = false ∨ s.virt = false ∨ s.hedeleg.getLsbD c.code = false))
      ∨ (s.exceptionTarget c = .vs ∧ s.priv ≠ .machine ∧ s.hasS = true ∧ s.medeleg.getLsbD c.code = true
          ∧ s.hasH = true ∧ s.virt = true ∧ s.hedeleg.getLsbD c.code = true) := by
  unfold State.exceptionTarget
  cases hp : s.priv <;> cases hS : s.hasS <;> cases hH : s.hasH <;> cases hv : s.virt <;>
    cases hm : s.medeleg.getLsbD c.code <;> cases hh : s.hedeleg.getLsbD c.code <;> simp

/-! ## CSR writes -/

/-- `t` is `s` but for CSRs, general registers, the reservation, the cached PMP settings and the draw counter. -/
def CsrTouched (s t : State) : Prop :=
  t = { s with
    x := t.x, mxl := t.mxl, ext := t.ext, mstatus := t.mstatus, m := t.m, pmpcfg := t.pmpcfg, pmpaddr := t.pmpaddr
    s := t.s, h := t.h, vs := t.vs, reservation := t.reservation, pmpStale := t.pmpStale, pmpStaleG := t.pmpStaleG
    draws := t.draws }

theorem CsrTouched.refl (s : State) : CsrTouched s s := rfl

theorem CsrTouched.trans {s t u : State} (h : CsrTouched s t) (k : CsrTouched t u) : CsrTouched s u := by
  unfold CsrTouched at *
  rw [k]
  rw [h]

theorem CsrTouched.staleAfter (s b : State) : CsrTouched s (s.staleAfter b) := by
  unfold State.staleAfter
  split <;> rfl

theorem CsrTouched.freeHideleg (s b : State) : CsrTouched s (s.freeHideleg b) := by
  unfold State.freeHideleg
  dsimp only
  split <;> rfl

theorem CsrTouched.settleM (s : State) (x : Xlen) : CsrTouched s (s.settleM x) := by
  unfold State.settleM
  split
  · exact CsrTouched.trans (t := s.narrowM) rfl (CsrTouched.staleAfter _ _)
  all_goals rfl

theorem CsrTouched.settleS (s : State) (x : Xlen) : CsrTouched s (s.settleS x) := by
  unfold State.settleS
  split <;> rfl

theorem CsrTouched.settleVs (s : State) (x : Xlen) : CsrTouched s (s.settleVs x) := by
  unfold State.settleVs
  split <;> rfl

theorem CsrTouched.settle (b s : State) : CsrTouched s (settle b s) :=
  ((CsrTouched.settleM s _).trans (CsrTouched.settleS _ _)).trans (CsrTouched.settleVs _ _)

theorem CsrTouched.writePmpcfgs (n : Nat) (s : State) (i : Nat) (v : Word) :
    CsrTouched s (s.writePmpcfgs i v n) := by
  induction n generalizing s i v with
  | zero => rfl
  | succ n ih =>
    have h : CsrTouched s { s with pmpcfg := s.pmpcfg.setIfInBounds i (s.legalPmpcfg i (v.setWidth 8)) } := rfl
    exact h.trans (ih _ _ _)

theorem CsrTouched.writeMCsr (s t : State) (r : CsrReg) (v : Word) (h : s.writeMCsr r v = some t) :
    CsrTouched s t := by
  unfold State.writeMCsr at h
  dsimp only at h
  split at h
  case h_1 =>
    cases h
    have e : CsrTouched s { s with mstatus := s.writeMstatus v } := rfl
    exact e.trans (CsrTouched.settle s _)
  case h_4 =>
    cases h
    exact CsrTouched.trans (t := { s with m := { s.m with
      ideleg := merge s.midelegMask s.m.ideleg (zxTo s.mxlen v) } }) rfl (CsrTouched.freeHideleg _ _)
  case h_12 =>
    simp only [Option.map_eq_some_iff] at h
    obtain ⟨c, _, rfl⟩ := h
    rfl
  case h_18 =>
    cases h
    exact (CsrTouched.writePmpcfgs _ s _ _).trans (CsrTouched.staleAfter _ _)
  case h_19 i =>
    cases h
    split
    · rfl
    · exact CsrTouched.trans (t := { s with pmpaddr := s.pmpaddr.setIfInBounds i (v &&& s.pmpaddrMask) }) rfl
        (CsrTouched.staleAfter _ _)
  all_goals
    cases h
    repeat (first | rfl | split)

theorem CsrTouched.writeSCsr (s t : State) (r : CsrReg) (v : Word) (h : s.writeSCsr r v = some t) :
    CsrTouched s t := by
  unfold State.writeSCsr at h
  dsimp only at h
  split at h
  case h_9 =>
    simp only [Option.map_eq_some_iff] at h
    obtain ⟨c, _, rfl⟩ := h
    rfl
  all_goals
    cases h
    rfl

theorem CsrTouched.writeHCsr (s t : State) (r : CsrReg) (v : Word) (h : s.writeHCsr r v = some t) :
    CsrTouched s t := by
  unfold State.writeHCsr at h
  dsimp only at h
  split at h
  case h_1 =>
    split at h
    · cases h
    · cases h
      have e : CsrTouched s { s with h := { s.h with status := s.writeHstatus v } } := rfl
      exact e.trans (CsrTouched.settle s _)
  all_goals
    cases h
    rfl

theorem CsrTouched.writeVsCsr (s t : State) (r : CsrReg) (v : Word) (h : s.writeVsCsr r v = some t) :
    CsrTouched s t := by
  unfold State.writeVsCsr at h
  dsimp only at h
  split at h
  case h_7 =>
    simp only [Option.map_eq_some_iff] at h
    obtain ⟨c, _, rfl⟩ := h
    rfl
  all_goals
    cases h
    rfl

theorem CsrTouched.writeOther (s t : State) (r : CsrReg) (v : Word) (h : s.writeOther r v = some t) :
    CsrTouched s t := by
  unfold State.writeOther at h
  split at h
  all_goals first
    | exact CsrTouched.writeSCsr s t _ v h
    | exact CsrTouched.writeHCsr s t _ v h
    | exact CsrTouched.writeVsCsr s t _ v h
    | exact CsrTouched.writeMCsr s t _ v h

theorem CsrTouched.freeRegs (l : List CsrReg) (s : State) : CsrTouched s (s.freeRegs l) := by
  induction l generalizing s with
  | nil => rfl
  | cons r rest ih =>
    unfold State.freeRegs
    refine CsrTouched.trans ?_ (ih _)
    have hw : CsrTouched s ((s.writeOther r (Config.freeWord s.draws)).getD s) := by
      cases h : s.writeOther r (Config.freeWord s.draws) with
      | none => rfl
      | some t => exact CsrTouched.writeOther s t r _ h
    exact hw.trans rfl

/-! One lemma for each part of what a write of `misa` frees. -/

theorem CsrTouched.freeHypervisor (s : State) : CsrTouched s s.freeHypervisor :=
  (CsrTouched.freeRegs hypervisorRegs s).trans rfl

theorem CsrTouched.freeSupervisor (s : State) : CsrTouched s s.freeSupervisor := by
  unfold State.freeSupervisor
  refine CsrTouched.trans (CsrTouched.trans ?_ (CsrTouched.settle s _)) (CsrTouched.freeRegs _ _)
  rfl

theorem CsrTouched.freeUser (s : State) : CsrTouched s s.freeUser := by
  unfold State.freeUser
  refine CsrTouched.trans ?_ (CsrTouched.freeRegs _ _)
  rfl

theorem CsrTouched.freeGained (s b : State) : CsrTouched s (s.freeGained b) := by
  unfold State.freeGained
  refine CsrTouched.trans ?_ (CsrTouched.freeHideleg _ _)
  rfl

theorem CsrTouched.drawReservation (s : State) : CsrTouched s s.drawReservation := by
  unfold State.drawReservation
  rfl

theorem CsrTouched.freeUpperX (s : State) : CsrTouched s s.freeUpperX := by
  unfold State.freeUpperX
  generalize (Vector.ofFn fun (k : Fin 32) =>
    if k.val < 16 then s.x[k.val] else sxTo s.mxlen (Config.freeWord (s.draws + k.val))) = x
  rfl

theorem CsrTouched.freeMpp (s b : State) : CsrTouched s (s.freeMpp b) := by
  unfold State.freeMpp
  split <;> rfl

theorem CsrTouched.onEnabled (s b : State) (n : Nat) (f : State → State) (hf : ∀ u, CsrTouched u (f u)) :
    CsrTouched s (s.onEnabled b n f) := by
  unfold State.onEnabled
  split
  · exact hf s
  · rfl

theorem CsrTouched.freeEnabled (s b : State) : CsrTouched s (s.freeEnabled b) := by
  unfold State.freeEnabled
  dsimp only
  refine CsrTouched.trans ?_ (CsrTouched.freeGained _ _)
  refine CsrTouched.trans ?_ (CsrTouched.onEnabled _ _ _ _ CsrTouched.freeHypervisor)
  refine CsrTouched.trans ?_ (CsrTouched.onEnabled _ _ _ _ CsrTouched.freeSupervisor)
  refine CsrTouched.trans ?_ (CsrTouched.onEnabled _ _ _ _ CsrTouched.freeUser)
  refine CsrTouched.trans ?_ (CsrTouched.freeMpp _ _)
  exact (CsrTouched.onEnabled _ _ _ _ CsrTouched.drawReservation).trans
    (CsrTouched.onEnabled _ _ _ _ CsrTouched.freeUpperX)

theorem CsrTouched.writeMisa (s : State) (v : Word) : CsrTouched s (s.writeMisa v) := by
  unfold State.writeMisa
  dsimp only
  split
  · rfl
  · refine CsrTouched.trans ?_ (CsrTouched.freeEnabled _ _)
    have h : CsrTouched s { s with
      ext := s.legalExt v, mxl := legalXl s.cfg.mxlWritable s.mxl (two v (s.mxl.bits - 2)) } := rfl
    refine CsrTouched.trans (h.trans (CsrTouched.settle s _)) ?_
    rfl

/-- A CSR write touches CSRs, what comes back with an extension that `misa` switches on, cached PMP settings and the draw
counter, and nothing else. -/
theorem CsrTouched.csrWrite (s t : State) (r : CsrReg) (v : Word) (h : s.csrWrite r v = some t) :
    CsrTouched s t := by
  unfold State.csrWrite at h
  split at h
  · cases h
    exact CsrTouched.writeMisa s v
  · exact CsrTouched.writeOther s t _ v h

/-- Everything a CSR instruction can do: take an exception with no other effect; read only; or write the CSR
after it has otherwise completed. -/
theorem State.csrOp_cases (s : State) (w : BitVec 32) (rd : RegIdx) (a : BitVec 12) (writes : Bool)
    (f : Word → Word) :
    s.csrOp w rd a writes f = .next (s.takeIllegal w)
      ∨ s.csrOp w rd a writes f = .next (s.takeVirtual w)
      ∨ (s.csrCheck a writes = .ok ∧ ∃ named, csrOf a = some named ∧
          ((writes = false ∧
              s.csrOp w rd a writes f = .next (s.writeX rd (s.csrRead (s.effectiveCsr named))).retire)
            ∨ (writes = true ∧ ∃ t, s.csrOp w rd a writes f = .next t ∧
                ((s.writeX rd (s.csrRead (s.effectiveCsr named))).retireBefore true (s.effectiveCsr named)).csrWrite
                  (s.effectiveCsr named)
                  (zxTo s.xlen (f (s.csrStored (s.effectiveCsr named)))) = some t))) := by
  unfold State.csrOp
  cases hp : s.csrCheck a writes with
  | illegal => exact .inl rfl
  | virt => exact .inr (.inl rfl)
  | ok =>
    simp only [State.guarded_ok]
    cases hr : csrOf a with
    | none => exact .inl rfl
    | some named =>
      cases writes with
      | false => exact .inr (.inr ⟨trivial, named, rfl, .inl ⟨rfl, rfl⟩⟩)
      | true =>
        cases hw : ((s.writeX rd (s.csrRead (s.effectiveCsr named))).retireBefore true
            (s.effectiveCsr named)).csrWrite (s.effectiveCsr named)
            (zxTo s.xlen (f (s.csrStored (s.effectiveCsr named)))) with
        | none => exact .inl (by simp [hw])
        | some t => exact .inr (.inr ⟨trivial, named, rfl, .inr ⟨rfl, t, by simp [hw], hw⟩⟩)

/-! ## The step -/

/-- Everything a step can do: a turn under the event of the step, in a configuration the spec allows. -/
theorem step_eq (s : State) :
    step s = if s.cfg.wf then s.begin.act s.event else .fault .illegalConfig := by
  cases h : s.env <;> simp [step, State.turn, State.event, h]

end Sys2Proof.Machine
end

