-- ==== Sys2Proof/Laws/PerInstr.lean ====
section
/-! SUPPORT. For each instruction: its encoding agrees with its row of spec/opcode_table.json, and is a 32-bit
instruction (30_encoding.md R680, R683, R684). -/

namespace Sys2Proof.Laws

open Sys2Proof

/-- The mask and the match of an instruction's row of spec/opcode_table.json. -/
def rowOf : Instr → BitVec 32 × BitVec 32
  | .ecall => (0xffffffff#32, 0x00000073#32)
  | .ebreak => (0xffffffff#32, 0x00100073#32)
  | .sret => (0xffffffff#32, 0x10200073#32)
  | .mret => (0xffffffff#32, 0x30200073#32)
  | .wfi => (0xffffffff#32, 0x10500073#32)
  | .sfenceVma _ _ => (0xfe007fff#32, 0x12000073#32)
  | .sinvalVma _ _ => (0xfe007fff#32, 0x16000073#32)
  | .sfenceWInval => (0xffffffff#32, 0x18000073#32)
  | .sfenceInvalIr => (0xffffffff#32, 0x18100073#32)
  | .hfenceVvma _ _ => (0xfe007fff#32, 0x22000073#32)
  | .hfenceGvma _ _ => (0xfe007fff#32, 0x62000073#32)
  | .hinvalVvma _ _ => (0xfe007fff#32, 0x26000073#32)
  | .hinvalGvma _ _ => (0xfe007fff#32, 0x66000073#32)
  | .hlvB _ _ => (0xfff0707f#32, 0x60004073#32)
  | .hlvBu _ _ => (0xfff0707f#32, 0x60104073#32)
  | .hlvH _ _ => (0xfff0707f#32, 0x64004073#32)
  | .hlvHu _ _ => (0xfff0707f#32, 0x64104073#32)
  | .hlvW _ _ => (0xfff0707f#32, 0x68004073#32)
  | .hlvWu _ _ => (0xfff0707f#32, 0x68104073#32)
  | .hlvD _ _ => (0xfff0707f#32, 0x6c004073#32)
  | .hlvxHu _ _ => (0xfff0707f#32, 0x64304073#32)
  | .hlvxWu _ _ => (0xfff0707f#32, 0x68304073#32)
  | .hsvB _ _ => (0xfe007fff#32, 0x62004073#32)
  | .hsvH _ _ => (0xfe007fff#32, 0x66004073#32)
  | .hsvW _ _ => (0xfe007fff#32, 0x6a004073#32)
  | .hsvD _ _ => (0xfe007fff#32, 0x6e004073#32)
  | .csrrw _ _ _ => (0x0000707f#32, 0x00001073#32)
  | .csrrs _ _ _ => (0x0000707f#32, 0x00002073#32)
  | .csrrc _ _ _ => (0x0000707f#32, 0x00003073#32)
  | .csrrwi _ _ _ => (0x0000707f#32, 0x00005073#32)
  | .csrrsi _ _ _ => (0x0000707f#32, 0x00006073#32)
  | .csrrci _ _ _ => (0x0000707f#32, 0x00007073#32)
  | .lui _ _ => (0x0000007f#32, 0x00000037#32)
  | .auipc _ _ => (0x0000007f#32, 0x00000017#32)
  | .jal _ _ => (0x0000007f#32, 0x0000006f#32)
  | .jalr _ _ _ => (0x0000707f#32, 0x00000067#32)
  | .beq _ _ _ => (0x0000707f#32, 0x00000063#32)
  | .bne _ _ _ => (0x0000707f#32, 0x00001063#32)
  | .blt _ _ _ => (0x0000707f#32, 0x00004063#32)
  | .bge _ _ _ => (0x0000707f#32, 0x00005063#32)
  | .bltu _ _ _ => (0x0000707f#32, 0x00006063#32)
  | .bgeu _ _ _ => (0x0000707f#32, 0x00007063#32)
  | .lb _ _ _ => (0x0000707f#32, 0x00000003#32)
  | .lh _ _ _ => (0x0000707f#32, 0x00001003#32)
  | .lw _ _ _ => (0x0000707f#32, 0x00002003#32)
  | .ld _ _ _ => (0x0000707f#32, 0x00003003#32)
  | .lbu _ _ _ => (0x0000707f#32, 0x00004003#32)
  | .lhu _ _ _ => (0x0000707f#32, 0x00005003#32)
  | .lwu _ _ _ => (0x0000707f#32, 0x00006003#32)
  | .sb _ _ _ => (0x0000707f#32, 0x00000023#32)
  | .sh _ _ _ => (0x0000707f#32, 0x00001023#32)
  | .sw _ _ _ => (0x0000707f#32, 0x00002023#32)
  | .sd _ _ _ => (0x0000707f#32, 0x00003023#32)
  | .addi _ _ _ => (0x0000707f#32, 0x00000013#32)
  | .slti _ _ _ => (0x0000707f#32, 0x00002013#32)
  | .sltiu _ _ _ => (0x0000707f#32, 0x00003013#32)
  | .xori _ _ _ => (0x0000707f#32, 0x00004013#32)
  | .ori _ _ _ => (0x0000707f#32, 0x00006013#32)
  | .andi _ _ _ => (0x0000707f#32, 0x00007013#32)
  | .slli _ _ _ => (0xfc00707f#32, 0x00001013#32)
  | .srli _ _ _ => (0xfc00707f#32, 0x00005013#32)
  | .srai _ _ _ => (0xfc00707f#32, 0x40005013#32)
  | .add _ _ _ => (0xfe00707f#32, 0x00000033#32)
  | .sub _ _ _ => (0xfe00707f#32, 0x40000033#32)
  | .sll _ _ _ => (0xfe00707f#32, 0x00001033#32)
  | .slt _ _ _ => (0xfe00707f#32, 0x00002033#32)
  | .sltu _ _ _ => (0xfe00707f#32, 0x00003033#32)
  | .xor _ _ _ => (0xfe00707f#32, 0x00004033#32)
  | .srl _ _ _ => (0xfe00707f#32, 0x00005033#32)
  | .sra _ _ _ => (0xfe00707f#32, 0x40005033#32)
  | .or _ _ _ => (0xfe00707f#32, 0x00006033#32)
  | .and _ _ _ => (0xfe00707f#32, 0x00007033#32)
  | .addiw _ _ _ => (0x0000707f#32, 0x0000001b#32)
  | .addw _ _ _ => (0xfe00707f#32, 0x0000003b#32)
  | .subw _ _ _ => (0xfe00707f#32, 0x4000003b#32)
  | .fence _ _ _ _ _ => (0x0000707f#32, 0x0000000f#32)
  | .fenceI _ _ _ => (0x0000707f#32, 0x0000100f#32)

/-- Masking a word field by field. -/
theorem and_encR (f7 : BitVec 7) (rs2 rs1 : RegIdx) (f3 : BitVec 3) (rd : RegIdx) (op : BitVec 7)
    (m7 : BitVec 7) (m2 m1 : RegIdx) (m3 : BitVec 3) (md : RegIdx) (mo : BitVec 7) :
    encR f7 rs2 rs1 f3 rd op &&& encR m7 m2 m1 m3 md mo =
      encR (f7 &&& m7) (rs2 &&& m2) (rs1 &&& m1) (f3 &&& m3) (rd &&& md) (op &&& mo) := by
  unfold encR
  rw [← BitVec.and_append, ← BitVec.and_append, ← BitVec.and_append, ← BitVec.and_append, ← BitVec.and_append]

/-- The low bits of a word are those of its opcode. -/
theorem low_encR (f7 : BitVec 7) (rs2 rs1 : RegIdx) (f3 : BitVec 3) (rd : RegIdx) (op : BitVec 7) :
    (encR f7 rs2 rs1 f3 rd op).extractLsb' 0 2 = op.extractLsb' 0 2 := by
  unfold encR
  ext i h
  simp
  grind

/-- A word matches a row when its fields do. -/
theorem row_encR (f7 : BitVec 7) (rs2 rs1 : RegIdx) (f3 : BitVec 3) (rd : RegIdx) (op : BitVec 7)
    (mask pat : BitVec 32) (m7 : BitVec 7) (m2 m1 : RegIdx) (m3 : BitVec 3) (md : RegIdx) (mo : BitVec 7)
    (hm : mask = encR m7 m2 m1 m3 md mo)
    (h : encR (f7 &&& m7) (rs2 &&& m2) (rs1 &&& m1) (f3 &&& m3) (rd &&& md) (op &&& mo) = pat) :
    encR f7 rs2 rs1 f3 rd op &&& mask = pat := by
  rw [hm, and_encR, h]

/-- The six fixed bits above a shift amount. -/
theorem shift_field (f : BitVec 6) (shamt : BitVec 6) :
    BitVec.extractLsb' 5 7 (f ++ shamt) &&& 0x7e#7 = f ++ 0#1 := by
  ext i h
  rw [BitVec.getElem_and, BitVec.getElem_extractLsb', BitVec.getLsbD_append, BitVec.getElem_append]
  interval_cases i <;> simp

namespace RowMatch

/-- The fixed bits of the row stand in the encoding, and the length bits say 32 bits. -/
def Statement (i : Instr) : Prop :=
  encode i &&& (rowOf i).1 = (rowOf i).2 ∧ (encode i).extractLsb' 0 2 = 0b11#2

theorem ecall : Statement .ecall := by
  unfold Statement; decide

theorem ebreak : Statement .ebreak := by
  unfold Statement; decide

theorem sret : Statement .sret := by
  unfold Statement; decide

theorem mret : Statement .mret := by
  unfold Statement; decide

theorem wfi : Statement .wfi := by
  unfold Statement; decide

theorem sfenceVma (rs1 rs2 : RegIdx) : Statement (.sfenceVma rs1 rs2) := by
  refine ⟨row_encR _ _ _ _ _ _ _ _ 0x7f#7 0#5 0#5 7#3 31#5 127#7 rfl ?_, low_encR _ _ _ _ _ _⟩
  simp
  rfl

theorem sinvalVma (rs1 rs2 : RegIdx) : Statement (.sinvalVma rs1 rs2) := by
  refine ⟨row_encR _ _ _ _ _ _ _ _ 0x7f#7 0#5 0#5 7#3 31#5 127#7 rfl ?_, low_encR _ _ _ _ _ _⟩
  simp
  rfl

theorem sfenceWInval : Statement .sfenceWInval := by
  unfold Statement; decide

theorem sfenceInvalIr : Statement .sfenceInvalIr := by
  unfold Statement; decide

theorem hfenceVvma (rs1 rs2 : RegIdx) : Statement (.hfenceVvma rs1 rs2) := by
  refine ⟨row_encR _ _ _ _ _ _ _ _ 0x7f#7 0#5 0#5 7#3 31#5 127#7 rfl ?_, low_encR _ _ _ _ _ _⟩
  simp
  rfl

theorem hfenceGvma (rs1 rs2 : RegIdx) : Statement (.hfenceGvma rs1 rs2) := by
  refine ⟨row_encR _ _ _ _ _ _ _ _ 0x7f#7 0#5 0#5 7#3 31#5 127#7 rfl ?_, low_encR _ _ _ _ _ _⟩
  simp
  rfl

theorem hinvalVvma (rs1 rs2 : RegIdx) : Statement (.hinvalVvma rs1 rs2) := by
  refine ⟨row_encR _ _ _ _ _ _ _ _ 0x7f#7 0#5 0#5 7#3 31#5 127#7 rfl ?_, low_encR _ _ _ _ _ _⟩
  simp
  rfl

theorem hinvalGvma (rs1 rs2 : RegIdx) : Statement (.hinvalGvma rs1 rs2) := by
  refine ⟨row_encR _ _ _ _ _ _ _ _ 0x7f#7 0#5 0#5 7#3 31#5 127#7 rfl ?_, low_encR _ _ _ _ _ _⟩
  simp
  rfl

theorem hlvB (rd rs1 : RegIdx) : Statement (.hlvB rd rs1) := by
  refine ⟨row_encR _ _ _ _ _ _ _ _ 0x7f#7 31#5 0#5 7#3 0#5 127#7 rfl ?_, low_encR _ _ _ _ _ _⟩
  simp
  rfl

theorem hlvBu (rd rs1 : RegIdx) : Statement (.hlvBu rd rs1) := by
  refine ⟨row_encR _ _ _ _ _ _ _ _ 0x7f#7 31#5 0#5 7#3 0#5 127#7 rfl ?_, low_encR _ _ _ _ _ _⟩
  simp
  rfl

theorem hlvH (rd rs1 : RegIdx) : Statement (.hlvH rd rs1) := by
  refine ⟨row_encR _ _ _ _ _ _ _ _ 0x7f#7 31#5 0#5 7#3 0#5 127#7 rfl ?_, low_encR _ _ _ _ _ _⟩
  simp
  rfl

theorem hlvHu (rd rs1 : RegIdx) : Statement (.hlvHu rd rs1) := by
  refine ⟨row_encR _ _ _ _ _ _ _ _ 0x7f#7 31#5 0#5 7#3 0#5 127#7 rfl ?_, low_encR _ _ _ _ _ _⟩
  simp
  rfl

theorem hlvW (rd rs1 : RegIdx) : Statement (.hlvW rd rs1) := by
  refine ⟨row_encR _ _ _ _ _ _ _ _ 0x7f#7 31#5 0#5 7#3 0#5 127#7 rfl ?_, low_encR _ _ _ _ _ _⟩
  simp
  rfl

theorem hlvWu (rd rs1 : RegIdx) : Statement (.hlvWu rd rs1) := by
  refine ⟨row_encR _ _ _ _ _ _ _ _ 0x7f#7 31#5 0#5 7#3 0#5 127#7 rfl ?_, low_encR _ _ _ _ _ _⟩
  simp
  rfl

theorem hlvD (rd rs1 : RegIdx) : Statement (.hlvD rd rs1) := by
  refine ⟨row_encR _ _ _ _ _ _ _ _ 0x7f#7 31#5 0#5 7#3 0#5 127#7 rfl ?_, low_encR _ _ _ _ _ _⟩
  simp
  rfl

theorem hlvxHu (rd rs1 : RegIdx) : Statement (.hlvxHu rd rs1) := by
  refine ⟨row_encR _ _ _ _ _ _ _ _ 0x7f#7 31#5 0#5 7#3 0#5 127#7 rfl ?_, low_encR _ _ _ _ _ _⟩
  simp
  rfl

theorem hlvxWu (rd rs1 : RegIdx) : Statement (.hlvxWu rd rs1) := by
  refine ⟨row_encR _ _ _ _ _ _ _ _ 0x7f#7 31#5 0#5 7#3 0#5 127#7 rfl ?_, low_encR _ _ _ _ _ _⟩
  simp
  rfl

theorem hsvB (rs1 rs2 : RegIdx) : Statement (.hsvB rs1 rs2) := by
  refine ⟨row_encR _ _ _ _ _ _ _ _ 0x7f#7 0#5 0#5 7#3 31#5 127#7 rfl ?_, low_encR _ _ _ _ _ _⟩
  simp
  rfl

theorem hsvH (rs1 rs2 : RegIdx) : Statement (.hsvH rs1 rs2) := by
  refine ⟨row_encR _ _ _ _ _ _ _ _ 0x7f#7 0#5 0#5 7#3 31#5 127#7 rfl ?_, low_encR _ _ _ _ _ _⟩
  simp
  rfl

theorem hsvW (rs1 rs2 : RegIdx) : Statement (.hsvW rs1 rs2) := by
  refine ⟨row_encR _ _ _ _ _ _ _ _ 0x7f#7 0#5 0#5 7#3 31#5 127#7 rfl ?_, low_encR _ _ _ _ _ _⟩
  simp
  rfl

theorem hsvD (rs1 rs2 : RegIdx) : Statement (.hsvD rs1 rs2) := by
  refine ⟨row_encR _ _ _ _ _ _ _ _ 0x7f#7 0#5 0#5 7#3 31#5 127#7 rfl ?_, low_encR _ _ _ _ _ _⟩
  simp
  rfl

theorem csrrw (rd : RegIdx) (csr : BitVec 12) (rs1 : RegIdx) : Statement (.csrrw rd csr rs1) := by
  refine ⟨row_encR _ _ _ _ _ _ _ _ 0x0#7 0#5 0#5 7#3 0#5 127#7 rfl ?_, low_encR _ _ _ _ _ _⟩
  simp
  rfl

theorem csrrs (rd : RegIdx) (csr : BitVec 12) (rs1 : RegIdx) : Statement (.csrrs rd csr rs1) := by
  refine ⟨row_encR _ _ _ _ _ _ _ _ 0x0#7 0#5 0#5 7#3 0#5 127#7 rfl ?_, low_encR _ _ _ _ _ _⟩
  simp
  rfl

theorem csrrc (rd : RegIdx) (csr : BitVec 12) (rs1 : RegIdx) : Statement (.csrrc rd csr rs1) := by
  refine ⟨row_encR _ _ _ _ _ _ _ _ 0x0#7 0#5 0#5 7#3 0#5 127#7 rfl ?_, low_encR _ _ _ _ _ _⟩
  simp
  rfl

theorem csrrwi (rd : RegIdx) (csr : BitVec 12) (uimm : BitVec 5) : Statement (.csrrwi rd csr uimm) := by
  refine ⟨row_encR _ _ _ _ _ _ _ _ 0x0#7 0#5 0#5 7#3 0#5 127#7 rfl ?_, low_encR _ _ _ _ _ _⟩
  simp
  rfl

theorem csrrsi (rd : RegIdx) (csr : BitVec 12) (uimm : BitVec 5) : Statement (.csrrsi rd csr uimm) := by
  refine ⟨row_encR _ _ _ _ _ _ _ _ 0x0#7 0#5 0#5 7#3 0#5 127#7 rfl ?_, low_encR _ _ _ _ _ _⟩
  simp
  rfl

theorem csrrci (rd : RegIdx) (csr : BitVec 12) (uimm : BitVec 5) : Statement (.csrrci rd csr uimm) := by
  refine ⟨row_encR _ _ _ _ _ _ _ _ 0x0#7 0#5 0#5 7#3 0#5 127#7 rfl ?_, low_encR _ _ _ _ _ _⟩
  simp
  rfl

theorem lui (rd : RegIdx) (imm : BitVec 20) : Statement (.lui rd imm) := by
  refine ⟨row_encR _ _ _ _ _ _ _ _ 0x0#7 0#5 0#5 0#3 0#5 127#7 rfl ?_, low_encR _ _ _ _ _ _⟩
  simp
  rfl

theorem auipc (rd : RegIdx) (imm : BitVec 20) : Statement (.auipc rd imm) := by
  refine ⟨row_encR _ _ _ _ _ _ _ _ 0x0#7 0#5 0#5 0#3 0#5 127#7 rfl ?_, low_encR _ _ _ _ _ _⟩
  simp
  rfl

theorem jal (rd : RegIdx) (off : BitVec 21) : Statement (.jal rd off) := by
  refine ⟨row_encR _ _ _ _ _ _ _ _ 0x0#7 0#5 0#5 0#3 0#5 127#7 rfl ?_, low_encR _ _ _ _ _ _⟩
  simp
  rfl

theorem jalr (rd rs1 : RegIdx) (imm : BitVec 12) : Statement (.jalr rd rs1 imm) := by
  refine ⟨row_encR _ _ _ _ _ _ _ _ 0x0#7 0#5 0#5 7#3 0#5 127#7 rfl ?_, low_encR _ _ _ _ _ _⟩
  simp
  rfl

theorem beq (rs1 rs2 : RegIdx) (off : BitVec 13) : Statement (.beq rs1 rs2 off) := by
  refine ⟨row_encR _ _ _ _ _ _ _ _ 0x0#7 0#5 0#5 7#3 0#5 127#7 rfl ?_, low_encR _ _ _ _ _ _⟩
  simp
  rfl

theorem bne (rs1 rs2 : RegIdx) (off : BitVec 13) : Statement (.bne rs1 rs2 off) := by
  refine ⟨row_encR _ _ _ _ _ _ _ _ 0x0#7 0#5 0#5 7#3 0#5 127#7 rfl ?_, low_encR _ _ _ _ _ _⟩
  simp
  rfl

theorem blt (rs1 rs2 : RegIdx) (off : BitVec 13) : Statement (.blt rs1 rs2 off) := by
  refine ⟨row_encR _ _ _ _ _ _ _ _ 0x0#7 0#5 0#5 7#3 0#5 127#7 rfl ?_, low_encR _ _ _ _ _ _⟩
  simp
  rfl

theorem bge (rs1 rs2 : RegIdx) (off : BitVec 13) : Statement (.bge rs1 rs2 off) := by
  refine ⟨row_encR _ _ _ _ _ _ _ _ 0x0#7 0#5 0#5 7#3 0#5 127#7 rfl ?_, low_encR _ _ _ _ _ _⟩
  simp
  rfl

theorem bltu (rs1 rs2 : RegIdx) (off : BitVec 13) : Statement (.bltu rs1 rs2 off) := by
  refine ⟨row_encR _ _ _ _ _ _ _ _ 0x0#7 0#5 0#5 7#3 0#5 127#7 rfl ?_, low_encR _ _ _ _ _ _⟩
  simp
  rfl

theorem bgeu (rs1 rs2 : RegIdx) (off : BitVec 13) : Statement (.bgeu rs1 rs2 off) := by
  refine ⟨row_encR _ _ _ _ _ _ _ _ 0x0#7 0#5 0#5 7#3 0#5 127#7 rfl ?_, low_encR _ _ _ _ _ _⟩
  simp
  rfl

theorem lb (rd rs1 : RegIdx) (imm : BitVec 12) : Statement (.lb rd rs1 imm) := by
  refine ⟨row_encR _ _ _ _ _ _ _ _ 0x0#7 0#5 0#5 7#3 0#5 127#7 rfl ?_, low_encR _ _ _ _ _ _⟩
  simp
  rfl

theorem lh (rd rs1 : RegIdx) (imm : BitVec 12) : Statement (.lh rd rs1 imm) := by
  refine ⟨row_encR _ _ _ _ _ _ _ _ 0x0#7 0#5 0#5 7#3 0#5 127#7 rfl ?_, low_encR _ _ _ _ _ _⟩
  simp
  rfl

theorem lw (rd rs1 : RegIdx) (imm : BitVec 12) : Statement (.lw rd rs1 imm) := by
  refine ⟨row_encR _ _ _ _ _ _ _ _ 0x0#7 0#5 0#5 7#3 0#5 127#7 rfl ?_, low_encR _ _ _ _ _ _⟩
  simp
  rfl

theorem ld (rd rs1 : RegIdx) (imm : BitVec 12) : Statement (.ld rd rs1 imm) := by
  refine ⟨row_encR _ _ _ _ _ _ _ _ 0x0#7 0#5 0#5 7#3 0#5 127#7 rfl ?_, low_encR _ _ _ _ _ _⟩
  simp
  rfl

theorem lbu (rd rs1 : RegIdx) (imm : BitVec 12) : Statement (.lbu rd rs1 imm) := by
  refine ⟨row_encR _ _ _ _ _ _ _ _ 0x0#7 0#5 0#5 7#3 0#5 127#7 rfl ?_, low_encR _ _ _ _ _ _⟩
  simp
  rfl

theorem lhu (rd rs1 : RegIdx) (imm : BitVec 12) : Statement (.lhu rd rs1 imm) := by
  refine ⟨row_encR _ _ _ _ _ _ _ _ 0x0#7 0#5 0#5 7#3 0#5 127#7 rfl ?_, low_encR _ _ _ _ _ _⟩
  simp
  rfl

theorem lwu (rd rs1 : RegIdx) (imm : BitVec 12) : Statement (.lwu rd rs1 imm) := by
  refine ⟨row_encR _ _ _ _ _ _ _ _ 0x0#7 0#5 0#5 7#3 0#5 127#7 rfl ?_, low_encR _ _ _ _ _ _⟩
  simp
  rfl

theorem sb (rs1 rs2 : RegIdx) (imm : BitVec 12) : Statement (.sb rs1 rs2 imm) := by
  refine ⟨row_encR _ _ _ _ _ _ _ _ 0x0#7 0#5 0#5 7#3 0#5 127#7 rfl ?_, low_encR _ _ _ _ _ _⟩
  simp
  rfl

theorem sh (rs1 rs2 : RegIdx) (imm : BitVec 12) : Statement (.sh rs1 rs2 imm) := by
  refine ⟨row_encR _ _ _ _ _ _ _ _ 0x0#7 0#5 0#5 7#3 0#5 127#7 rfl ?_, low_encR _ _ _ _ _ _⟩
  simp
  rfl

theorem sw (rs1 rs2 : RegIdx) (imm : BitVec 12) : Statement (.sw rs1 rs2 imm) := by
  refine ⟨row_encR _ _ _ _ _ _ _ _ 0x0#7 0#5 0#5 7#3 0#5 127#7 rfl ?_, low_encR _ _ _ _ _ _⟩
  simp
  rfl

theorem sd (rs1 rs2 : RegIdx) (imm : BitVec 12) : Statement (.sd rs1 rs2 imm) := by
  refine ⟨row_encR _ _ _ _ _ _ _ _ 0x0#7 0#5 0#5 7#3 0#5 127#7 rfl ?_, low_encR _ _ _ _ _ _⟩
  simp
  rfl

theorem addi (rd rs1 : RegIdx) (imm : BitVec 12) : Statement (.addi rd rs1 imm) := by
  refine ⟨row_encR _ _ _ _ _ _ _ _ 0x0#7 0#5 0#5 7#3 0#5 127#7 rfl ?_, low_encR _ _ _ _ _ _⟩
  simp
  rfl

theorem slti (rd rs1 : RegIdx) (imm : BitVec 12) : Statement (.slti rd rs1 imm) := by
  refine ⟨row_encR _ _ _ _ _ _ _ _ 0x0#7 0#5 0#5 7#3 0#5 127#7 rfl ?_, low_encR _ _ _ _ _ _⟩
  simp
  rfl

theorem sltiu (rd rs1 : RegIdx) (imm : BitVec 12) : Statement (.sltiu rd rs1 imm) := by
  refine ⟨row_encR _ _ _ _ _ _ _ _ 0x0#7 0#5 0#5 7#3 0#5 127#7 rfl ?_, low_encR _ _ _ _ _ _⟩
  simp
  rfl

theorem xori (rd rs1 : RegIdx) (imm : BitVec 12) : Statement (.xori rd rs1 imm) := by
  refine ⟨row_encR _ _ _ _ _ _ _ _ 0x0#7 0#5 0#5 7#3 0#5 127#7 rfl ?_, low_encR _ _ _ _ _ _⟩
  simp
  rfl

theorem ori (rd rs1 : RegIdx) (imm : BitVec 12) : Statement (.ori rd rs1 imm) := by
  refine ⟨row_encR _ _ _ _ _ _ _ _ 0x0#7 0#5 0#5 7#3 0#5 127#7 rfl ?_, low_encR _ _ _ _ _ _⟩
  simp
  rfl

theorem andi (rd rs1 : RegIdx) (imm : BitVec 12) : Statement (.andi rd rs1 imm) := by
  refine ⟨row_encR _ _ _ _ _ _ _ _ 0x0#7 0#5 0#5 7#3 0#5 127#7 rfl ?_, low_encR _ _ _ _ _ _⟩
  simp
  rfl

theorem slli (rd rs1 : RegIdx) (shamt : BitVec 6) : Statement (.slli rd rs1 shamt) := by
  refine ⟨row_encR _ _ _ _ _ _ _ _ 0x7e#7 0#5 0#5 7#3 0#5 127#7 rfl ?_, low_encR _ _ _ _ _ _⟩
  rw [shift_field]
  simp
  rfl

theorem srli (rd rs1 : RegIdx) (shamt : BitVec 6) : Statement (.srli rd rs1 shamt) := by
  refine ⟨row_encR _ _ _ _ _ _ _ _ 0x7e#7 0#5 0#5 7#3 0#5 127#7 rfl ?_, low_encR _ _ _ _ _ _⟩
  rw [shift_field]
  simp
  rfl

theorem srai (rd rs1 : RegIdx) (shamt : BitVec 6) : Statement (.srai rd rs1 shamt) := by
  refine ⟨row_encR _ _ _ _ _ _ _ _ 0x7e#7 0#5 0#5 7#3 0#5 127#7 rfl ?_, low_encR _ _ _ _ _ _⟩
  rw [shift_field]
  simp
  rfl

theorem add (rd rs1 rs2 : RegIdx) : Statement (.add rd rs1 rs2) := by
  refine ⟨row_encR _ _ _ _ _ _ _ _ 0x7f#7 0#5 0#5 7#3 0#5 127#7 rfl ?_, low_encR _ _ _ _ _ _⟩
  simp
  rfl

theorem sub (rd rs1 rs2 : RegIdx) : Statement (.sub rd rs1 rs2) := by
  refine ⟨row_encR _ _ _ _ _ _ _ _ 0x7f#7 0#5 0#5 7#3 0#5 127#7 rfl ?_, low_encR _ _ _ _ _ _⟩
  simp
  rfl

theorem sll (rd rs1 rs2 : RegIdx) : Statement (.sll rd rs1 rs2) := by
  refine ⟨row_encR _ _ _ _ _ _ _ _ 0x7f#7 0#5 0#5 7#3 0#5 127#7 rfl ?_, low_encR _ _ _ _ _ _⟩
  simp
  rfl

theorem slt (rd rs1 rs2 : RegIdx) : Statement (.slt rd rs1 rs2) := by
  refine ⟨row_encR _ _ _ _ _ _ _ _ 0x7f#7 0#5 0#5 7#3 0#5 127#7 rfl ?_, low_encR _ _ _ _ _ _⟩
  simp
  rfl

theorem sltu (rd rs1 rs2 : RegIdx) : Statement (.sltu rd rs1 rs2) := by
  refine ⟨row_encR _ _ _ _ _ _ _ _ 0x7f#7 0#5 0#5 7#3 0#5 127#7 rfl ?_, low_encR _ _ _ _ _ _⟩
  simp
  rfl

theorem xor (rd rs1 rs2 : RegIdx) : Statement (.xor rd rs1 rs2) := by
  refine ⟨row_encR _ _ _ _ _ _ _ _ 0x7f#7 0#5 0#5 7#3 0#5 127#7 rfl ?_, low_encR _ _ _ _ _ _⟩
  simp
  rfl

theorem srl (rd rs1 rs2 : RegIdx) : Statement (.srl rd rs1 rs2) := by
  refine ⟨row_encR _ _ _ _ _ _ _ _ 0x7f#7 0#5 0#5 7#3 0#5 127#7 rfl ?_, low_encR _ _ _ _ _ _⟩
  simp
  rfl

theorem sra (rd rs1 rs2 : RegIdx) : Statement (.sra rd rs1 rs2) := by
  refine ⟨row_encR _ _ _ _ _ _ _ _ 0x7f#7 0#5 0#5 7#3 0#5 127#7 rfl ?_, low_encR _ _ _ _ _ _⟩
  simp
  rfl

theorem or (rd rs1 rs2 : RegIdx) : Statement (.or rd rs1 rs2) := by
  refine ⟨row_encR _ _ _ _ _ _ _ _ 0x7f#7 0#5 0#5 7#3 0#5 127#7 rfl ?_, low_encR _ _ _ _ _ _⟩
  simp
  rfl

theorem and (rd rs1 rs2 : RegIdx) : Statement (.and rd rs1 rs2) := by
  refine ⟨row_encR _ _ _ _ _ _ _ _ 0x7f#7 0#5 0#5 7#3 0#5 127#7 rfl ?_, low_encR _ _ _ _ _ _⟩
  simp
  rfl

theorem addiw (rd rs1 : RegIdx) (imm : BitVec 12) : Statement (.addiw rd rs1 imm) := by
  refine ⟨row_encR _ _ _ _ _ _ _ _ 0x0#7 0#5 0#5 7#3 0#5 127#7 rfl ?_, low_encR _ _ _ _ _ _⟩
  simp
  rfl

theorem addw (rd rs1 rs2 : RegIdx) : Statement (.addw rd rs1 rs2) := by
  refine ⟨row_encR _ _ _ _ _ _ _ _ 0x7f#7 0#5 0#5 7#3 0#5 127#7 rfl ?_, low_encR _ _ _ _ _ _⟩
  simp
  rfl

theorem subw (rd rs1 rs2 : RegIdx) : Statement (.subw rd rs1 rs2) := by
  refine ⟨row_encR _ _ _ _ _ _ _ _ 0x7f#7 0#5 0#5 7#3 0#5 127#7 rfl ?_, low_encR _ _ _ _ _ _⟩
  simp
  rfl

theorem fence (fm pred succ : BitVec 4) (rs1 rd : RegIdx) : Statement (.fence fm pred succ rs1 rd) := by
  refine ⟨row_encR _ _ _ _ _ _ _ _ 0x0#7 0#5 0#5 7#3 0#5 127#7 rfl ?_, low_encR _ _ _ _ _ _⟩
  simp
  rfl

theorem fenceI (imm : BitVec 12) (rs1 rd : RegIdx) : Statement (.fenceI imm rs1 rd) := by
  refine ⟨row_encR _ _ _ _ _ _ _ _ 0x0#7 0#5 0#5 7#3 0#5 127#7 rfl ?_, low_encR _ _ _ _ _ _⟩
  simp
  rfl

end RowMatch

end Sys2Proof.Laws
end

