-- ==== Sys2Proof/Tests/Slice0.lean ====
section
/-! SUPPORT. Tests: ill-formed terms refused, a word of every instruction written out from its row of the opcode
table, one-step tests whose expected results are the spec's worked vectors, and a state that meets the hypotheses of
each statement. -/

namespace Sys2Proof.Tests

open Sys2Proof Sys2Proof.Machine

/-! ## Ill-formed terms -/

theorem test_wellFormed_jal : (Instr.jal 1 3).WellFormed = false := by decide
theorem test_wellFormed_branches :
    ([Instr.beq 1 2 1, .bne 1 2 3, .blt 1 2 5, .bge 1 2 7, .bltu 1 2 9, .bgeu 1 2 0x1FFF].all
      fun i => !i.WellFormed) = true := by decide

/-! ## Decoding: the fields of each word in the table's columns (30_encoding.md R683, R694, 45_base_isa_subset.md
R1002 to R1005; immediates scrambled by hand as in R1001) -/

theorem test_decode_ecall : decodeWord 0b000000000000_00000_000_00000_1110011 = some .ecall := by decide
theorem test_decode_ebreak : decodeWord 0b000000000001_00000_000_00000_1110011 = some .ebreak := by decide
theorem test_decode_sret : decodeWord 0b000100000010_00000_000_00000_1110011 = some .sret := by decide
theorem test_decode_mret : decodeWord 0b001100000010_00000_000_00000_1110011 = some .mret := by decide
theorem test_decode_wfi : decodeWord 0b000100000101_00000_000_00000_1110011 = some .wfi := by decide
theorem test_decode_sfenceVma : decodeWord 0b0001001_10010_01011_000000001110011 = some (.sfenceVma 11 18) := by decide
theorem test_decode_sinvalVma : decodeWord 0b0001011_10010_01011_000000001110011 = some (.sinvalVma 11 18) := by decide
theorem test_decode_sfenceWInval : decodeWord 0b000110000000_00000_000_00000_1110011 = some .sfenceWInval := by decide
theorem test_decode_sfenceInvalIr : decodeWord 0b000110000001_00000_000_00000_1110011 = some .sfenceInvalIr := by decide
theorem test_decode_hfenceVvma : decodeWord 0b0010001_10010_01011_000000001110011 = some (.hfenceVvma 11 18) := by decide
theorem test_decode_hfenceGvma : decodeWord 0b0110001_10010_01011_000000001110011 = some (.hfenceGvma 11 18) := by decide
theorem test_decode_hinvalVvma : decodeWord 0b0010011_10010_01011_000000001110011 = some (.hinvalVvma 11 18) := by decide
theorem test_decode_hinvalGvma : decodeWord 0b0110011_10010_01011_000000001110011 = some (.hinvalGvma 11 18) := by decide
theorem test_decode_hlvB : decodeWord 0b011000000000_01011_100_01010_1110011 = some (.hlvB 10 11) := by decide
theorem test_decode_hlvBu : decodeWord 0b011000000001_01011_100_01010_1110011 = some (.hlvBu 10 11) := by decide
theorem test_decode_hlvH : decodeWord 0b011001000000_01011_100_01010_1110011 = some (.hlvH 10 11) := by decide
theorem test_decode_hlvHu : decodeWord 0b011001000001_01011_100_01010_1110011 = some (.hlvHu 10 11) := by decide
theorem test_decode_hlvW : decodeWord 0b011010000000_01011_100_01010_1110011 = some (.hlvW 10 11) := by decide
theorem test_decode_hlvWu : decodeWord 0b011010000001_01011_100_01010_1110011 = some (.hlvWu 10 11) := by decide
theorem test_decode_hlvD : decodeWord 0b011011000000_01011_100_01010_1110011 = some (.hlvD 10 11) := by decide
theorem test_decode_hlvxHu : decodeWord 0b011001000011_01011_100_01010_1110011 = some (.hlvxHu 10 11) := by decide
theorem test_decode_hlvxWu : decodeWord 0b011010000011_01011_100_01010_1110011 = some (.hlvxWu 10 11) := by decide
theorem test_decode_hsvB : decodeWord 0b0110001_10010_01011_100000001110011 = some (.hsvB 11 18) := by decide
theorem test_decode_hsvH : decodeWord 0b0110011_10010_01011_100000001110011 = some (.hsvH 11 18) := by decide
theorem test_decode_hsvW : decodeWord 0b0110101_10010_01011_100000001110011 = some (.hsvW 11 18) := by decide
theorem test_decode_hsvD : decodeWord 0b0110111_10010_01011_100000001110011 = some (.hsvD 11 18) := by decide
theorem test_decode_csrrw : decodeWord 0b001101000010_01011_001_01010_1110011 = some (.csrrw 10 0x342 11) := by decide
theorem test_decode_csrrs : decodeWord 0b001101000010_01011_010_01010_1110011 = some (.csrrs 10 0x342 11) := by decide
theorem test_decode_csrrc : decodeWord 0b001101000010_01011_011_01010_1110011 = some (.csrrc 10 0x342 11) := by decide
theorem test_decode_csrrwi : decodeWord 0b001101000010_10101_101_01010_1110011 = some (.csrrwi 10 0x342 21) := by decide
theorem test_decode_csrrsi : decodeWord 0b001101000010_10101_110_01010_1110011 = some (.csrrsi 10 0x342 21) := by decide
theorem test_decode_csrrci : decodeWord 0b001101000010_10101_111_01010_1110011 = some (.csrrci 10 0x342 21) := by decide
theorem test_decode_lui : decodeWord 0b10011010101111001101_01010_0110111 = some (.lui 10 0x9abcd) := by decide
theorem test_decode_auipc : decodeWord 0b10011010101111001101_01010_0010111 = some (.auipc 10 0x9abcd) := by decide
theorem test_decode_jal : decodeWord 0b11001101111101111011_01010_1101111 = some (.jal 10 0x17BCDE) := by decide
theorem test_decode_jalr : decodeWord 0b100111000101_01011_000_01010_1100111 = some (.jalr 10 11 0x9C5) := by decide
theorem test_decode_beq : decodeWord 0b1010110_10010_01011_000_01011_1100011 = some (.beq 11 18 0x1ACA) := by decide
theorem test_decode_bne : decodeWord 0b1010110_10010_01011_001_01011_1100011 = some (.bne 11 18 0x1ACA) := by decide
theorem test_decode_blt : decodeWord 0b1010110_10010_01011_100_01011_1100011 = some (.blt 11 18 0x1ACA) := by decide
theorem test_decode_bge : decodeWord 0b1010110_10010_01011_101_01011_1100011 = some (.bge 11 18 0x1ACA) := by decide
theorem test_decode_bltu : decodeWord 0b1010110_10010_01011_110_01011_1100011 = some (.bltu 11 18 0x1ACA) := by decide
theorem test_decode_bgeu : decodeWord 0b1010110_10010_01011_111_01011_1100011 = some (.bgeu 11 18 0x1ACA) := by decide
theorem test_decode_lb : decodeWord 0b100111000101_01011_000_01010_0000011 = some (.lb 10 11 0x9C5) := by decide
theorem test_decode_lh : decodeWord 0b100111000101_01011_001_01010_0000011 = some (.lh 10 11 0x9C5) := by decide
theorem test_decode_lw : decodeWord 0b100111000101_01011_010_01010_0000011 = some (.lw 10 11 0x9C5) := by decide
theorem test_decode_ld : decodeWord 0b100111000101_01011_011_01010_0000011 = some (.ld 10 11 0x9C5) := by decide
theorem test_decode_lbu : decodeWord 0b100111000101_01011_100_01010_0000011 = some (.lbu 10 11 0x9C5) := by decide
theorem test_decode_lhu : decodeWord 0b100111000101_01011_101_01010_0000011 = some (.lhu 10 11 0x9C5) := by decide
theorem test_decode_lwu : decodeWord 0b100111000101_01011_110_01010_0000011 = some (.lwu 10 11 0x9C5) := by decide
theorem test_decode_sb : decodeWord 0b1001110_10010_01011_000_00101_0100011 = some (.sb 11 18 0x9C5) := by decide
theorem test_decode_sh : decodeWord 0b1001110_10010_01011_001_00101_0100011 = some (.sh 11 18 0x9C5) := by decide
theorem test_decode_sw : decodeWord 0b1001110_10010_01011_010_00101_0100011 = some (.sw 11 18 0x9C5) := by decide
theorem test_decode_sd : decodeWord 0b1001110_10010_01011_011_00101_0100011 = some (.sd 11 18 0x9C5) := by decide
theorem test_decode_addi : decodeWord 0b100111000101_01011_000_01010_0010011 = some (.addi 10 11 0x9C5) := by decide
theorem test_decode_slti : decodeWord 0b100111000101_01011_010_01010_0010011 = some (.slti 10 11 0x9C5) := by decide
theorem test_decode_sltiu : decodeWord 0b100111000101_01011_011_01010_0010011 = some (.sltiu 10 11 0x9C5) := by decide
theorem test_decode_xori : decodeWord 0b100111000101_01011_100_01010_0010011 = some (.xori 10 11 0x9C5) := by decide
theorem test_decode_ori : decodeWord 0b100111000101_01011_110_01010_0010011 = some (.ori 10 11 0x9C5) := by decide
theorem test_decode_andi : decodeWord 0b100111000101_01011_111_01010_0010011 = some (.andi 10 11 0x9C5) := by decide
theorem test_decode_slli : decodeWord 0b000000_101011_01011_001_01010_0010011 = some (.slli 10 11 0x2B) := by decide
theorem test_decode_srli : decodeWord 0b000000_101011_01011_101_01010_0010011 = some (.srli 10 11 0x2B) := by decide
theorem test_decode_srai : decodeWord 0b010000_101011_01011_101_01010_0010011 = some (.srai 10 11 0x2B) := by decide
theorem test_decode_add : decodeWord 0b0000000_10010_01011_000_01010_0110011 = some (.add 10 11 18) := by decide
theorem test_decode_sub : decodeWord 0b0100000_10010_01011_000_01010_0110011 = some (.sub 10 11 18) := by decide
theorem test_decode_sll : decodeWord 0b0000000_10010_01011_001_01010_0110011 = some (.sll 10 11 18) := by decide
theorem test_decode_slt : decodeWord 0b0000000_10010_01011_010_01010_0110011 = some (.slt 10 11 18) := by decide
theorem test_decode_sltu : decodeWord 0b0000000_10010_01011_011_01010_0110011 = some (.sltu 10 11 18) := by decide
theorem test_decode_xor : decodeWord 0b0000000_10010_01011_100_01010_0110011 = some (.xor 10 11 18) := by decide
theorem test_decode_srl : decodeWord 0b0000000_10010_01011_101_01010_0110011 = some (.srl 10 11 18) := by decide
theorem test_decode_sra : decodeWord 0b0100000_10010_01011_101_01010_0110011 = some (.sra 10 11 18) := by decide
theorem test_decode_or : decodeWord 0b0000000_10010_01011_110_01010_0110011 = some (.or 10 11 18) := by decide
theorem test_decode_and : decodeWord 0b0000000_10010_01011_111_01010_0110011 = some (.and 10 11 18) := by decide
theorem test_decode_addiw : decodeWord 0b100111000101_01011_000_01010_0011011 = some (.addiw 10 11 0x9C5) := by decide
theorem test_decode_addw : decodeWord 0b0000000_10010_01011_000_01010_0111011 = some (.addw 10 11 18) := by decide
theorem test_decode_subw : decodeWord 0b0100000_10010_01011_000_01010_0111011 = some (.subw 10 11 18) := by decide
theorem test_decode_fence : decodeWord 0b1000_0011_1100_01011_000_01010_0001111 = some (.fence 8 3 12 11 10) := by decide
theorem test_decode_fenceI : decodeWord 0b100111000101_01011_001_01010_0001111 = some (.fenceI 0x9C5 11 10) := by decide
/-- Words of no instruction: all zeros, all ones, an unallocated rs2 (R808 row 12), a Volume I multiply. -/
theorem test_decode_rejects :
    decodeWord 0x00000000 = none ∧ decodeWord 0xFFFFFFFF = none ∧ decodeWord 0x18200073 = none
      ∧ decodeBytes (bytesOfWord 0x02C58533) = .rejected (.volumeOne .m) := by decide

/-- The compressed breakpoint (R694). -/
theorem test_decode_cEbreak : decodeBytes [0x02, 0x90] = .instr .ebreak 2 := by decide

/-! ## States -/

/-- M-mode after reset, with the cycle counter inhibited and one PMP entry that opens all of memory. -/
def base : State :=
  { State.reset with
    m := { State.reset.m with countinhibit := 1 }
    pmpcfg := State.reset.pmpcfg.set 0 0x1F
    pmpaddr := State.reset.pmpaddr.set 0 0x3FFFFFFFFFFFFF }

/-- The same in another mode. -/
def inMode (p : Priv) (v : Bool) : State := { base with priv := p, virt := v }

def hsMode : State := inMode .supervisor false
def uMode : State := inMode .user false
def vsMode : State := inMode .supervisor true
def vuMode : State := inMode .user true

/-- `s` with `x11`. -/
def withX11 (s : State) (v : Word) : State := { s with x := s.x.set 11 v }

/-- `s` with `x11` and `x12`. -/
def withRegs (s : State) (a b : Word) : State := { s with x := (s.x.set 11 a).set 12 b }

/-- MXLEN = 32. -/
def narrow (s : State) : State := { s with mxl := .x32 }

/-- Both byte orders are possible in M-mode and VS-mode. -/
def eitherOrder (s : State) : State := { s with cfg := { s.cfg with mbe := .both, vsbe := .both } }

/-- `s` with these bytes of memory. -/
def withMem (s : State) (l : List Host.Cell) : State := { s with mem := l }

/-- What instruction `i` leaves satisfies `f`. -/
def after (i : Instr) (s : State) (f : State → Bool) : Bool :=
  match exec i s with
  | .next t => f t
  | _ => false

/-- What a step leaves satisfies `f`. -/
def stepped (s : State) (f : State → Bool) : Bool :=
  match step s with
  | .next t => f t
  | _ => false

/-- The exception of code `c` was taken into M-mode. -/
def trappedM (c : Word) (t : State) : Bool := t.m.cause == c && t.priv == .machine && !t.virt

/-! ## Integer computation (R1002, R1004; results by hand) -/

theorem test_addi : after (.addi 10 11 0xFFF) (withX11 base 0) (fun t => t.readX 10 == 0xFFFFFFFFFFFFFFFF) = true := by
  decide
theorem test_slti : after (.slti 10 11 0x800) (withX11 base 0x8000000000000000) (fun t => t.readX 10 == 1) = true := by
  decide
theorem test_sltiu : after (.sltiu 10 11 0xFFF) (withX11 base 5) (fun t => t.readX 10 == 1) = true := by decide
theorem test_xori : after (.xori 11 11 0xFFF) (withX11 base 0x0F) (fun t => t.readX 11 == 0xFFFFFFFFFFFFFFF0) = true := by
  decide
theorem test_ori : after (.ori 10 11 0x800) (withX11 base 1) (fun t => t.readX 10 == 0xFFFFFFFFFFFFF801) = true := by
  decide
theorem test_andi : after (.andi 10 11 0x0F0) (withX11 base 0xFFF) (fun t => t.readX 10 == 0xF0) = true := by decide
theorem test_slli : after (.slli 10 11 63) (withX11 base 3) (fun t => t.readX 10 == 0x8000000000000000) = true := by
  decide
theorem test_srli : after (.srli 10 11 31) (withX11 (narrow base) 0xFFFFFFFF80000000) (fun t => t.readX 10 == 1) = true := by
  decide
theorem test_srai : after (.srai 10 11 4) (withX11 base 0x8000000000000000) (fun t => t.readX 10 == 0xF800000000000000)
    = true := by decide
theorem test_add : after (.add 10 11 12) (withRegs (narrow base) 0x7FFFFFFF 1) (fun t => t.readX 10 == 0xFFFFFFFF80000000)
    = true := by decide
theorem test_sub : after (.sub 10 11 12) (withRegs base 3 5) (fun t => t.readX 10 == 0xFFFFFFFFFFFFFFFE) = true := by
  decide
theorem test_sll : after (.sll 10 11 12) (withRegs base 1 0x41) (fun t => t.readX 10 == 2) = true := by decide
theorem test_slt : after (.slt 10 11 12) (withRegs base 0xFFFFFFFFFFFFFFFF 0) (fun t => t.readX 10 == 1) = true := by
  decide
theorem test_sltu : after (.sltu 10 11 12) (withRegs base 0xFFFFFFFFFFFFFFFF 0) (fun t => t.readX 10 == 0) = true := by
  decide
theorem test_xor : after (.xor 10 11 12) (withRegs base 0b1100 0b1010) (fun t => t.readX 10 == 0b0110) = true := by decide
theorem test_srl : after (.srl 10 11 12) (withRegs (narrow base) 0xFFFFFFFF80000000 0x3F) (fun t => t.readX 10 == 1) = true := by
  decide
theorem test_sra : after (.sra 10 11 12) (withRegs base 0x8000000000000000 63) (fun t => t.readX 10 == 0xFFFFFFFFFFFFFFFF)
    = true := by decide
theorem test_or : after (.or 10 11 12) (withRegs base 0b1100 0b1010) (fun t => t.readX 10 == 0b1110) = true := by decide
theorem test_and : after (.and 0 11 12) (withRegs base 0b1100 0b1010) (fun t => t.readX 0 == 0 && t.pc == 0x80000004)
    = true := by decide
theorem test_addiw : after (.addiw 10 11 1) (withX11 base 0x7FFFFFFF) (fun t => t.readX 10 == 0xFFFFFFFF80000000) = true := by
  decide
theorem test_addw : after (.addw 10 11 12) (withRegs base 0xFFFFFFFF 1) (fun t => t.readX 10 == 0) = true := by decide
theorem test_subw : after (.subw 10 11 12) (withRegs (narrow base) 0 0) (trappedM 2) = true := by decide
theorem test_lui : after (.lui 10 0x80000) base (fun t => t.readX 10 == 0xFFFFFFFF80000000) = true := by decide
theorem test_auipc : after (.auipc 10 0xFFFFF) base (fun t => t.readX 10 == 0x7FFFF000) = true := by decide

/-! ## Control transfer (R1002, R872; R945 row 15) -/

theorem test_jal : after (.jal 1 0x1FFFFC) base (fun t => t.pc == 0x7FFFFFFC && t.readX 1 == 0x80000004) = true := by
  decide
theorem test_jalr : after (.jalr 1 0 2) base (fun t => trappedM 0 t && t.m.tval == 2 && t.m.epc == 0x80000000
    && t.readX 1 == 0) = true := by decide
theorem test_beq : after (.beq 11 12 8) (withRegs base 5 5) (fun t => t.pc == 0x80000008) = true := by decide
theorem test_bne : after (.bne 11 12 2) (withRegs base 5 5) (fun t => t.pc == 0x80000004) = true := by decide
theorem test_blt : after (.blt 11 12 0x1FFC) (withRegs base 0xFFFFFFFFFFFFFFFF 0) (fun t => t.pc == 0x7FFFFFFC) = true := by
  decide
theorem test_bge : after (.bge 11 12 8) (withRegs base 0xFFFFFFFFFFFFFFFF 0) (fun t => t.pc == 0x80000004) = true := by
  decide
theorem test_bltu : after (.bltu 11 12 8) (withRegs base 0xFFFFFFFFFFFFFFFF 0) (fun t => t.pc == 0x80000004) = true := by
  decide
theorem test_bgeu : after (.bgeu 11 12 6) (withRegs base 0xFFFFFFFFFFFFFFFF 0) (fun t => trappedM 0 t
    && t.m.tval == 0x80000006) = true := by decide

/-! ## Loads and stores (R1003, R455, R873; results by hand) -/

/-- Memory for the loads: 80 91 A2 B3 C4 D5 E6 F7 from 0x80001000. -/
def bytes8 : List Host.Cell :=
  [(0x80001000, 0x80), (0x80001001, 0x91), (0x80001002, 0xA2), (0x80001003, 0xB3), (0x80001004, 0xC4),
   (0x80001005, 0xD5), (0x80001006, 0xE6), (0x80001007, 0xF7)]

/-- Those bytes, and `x11` at them. -/
def loading (s : State) : State := withMem (withX11 s 0x80001000) bytes8

theorem test_lb : after (.lb 10 11 0) (loading base) (fun t => t.readX 10 == 0xFFFFFFFFFFFFFF80) = true := by decide
theorem test_lh : after (.lh 10 11 2) (loading base) (fun t => t.readX 10 == 0xFFFFFFFFFFFFB3A2) = true := by decide
theorem test_lw : after (.lw 10 11 0) (loading base) (fun t => t.readX 10 == 0xFFFFFFFFB3A29180) = true := by decide
theorem test_ld : after (.ld 10 11 0) (eitherOrder (loading { base with mstatus := { base.mstatus with mbe := true } }))
    (fun t => t.readX 10 == 0x8091A2B3C4D5E6F7) = true := by decide
theorem test_lbu : after (.lbu 10 11 7) (loading base) (fun t => t.readX 10 == 0xF7) = true := by decide
theorem test_lhu : after (.lhu 10 11 1) (loading base) (fun t => trappedM 4 t && t.m.tval == 0x80001001) = true := by decide
theorem test_lwu : after (.lwu 10 11 4) (loading base) (fun t => t.readX 10 == 0xF7E6D5C4) = true := by decide
theorem test_sb : after (.sb 11 12 1) (withMem (withRegs base 0x80001000 0x1FF) bytes8)
    (fun t => t.readPhys 0x80001001 == 0xFF && t.readPhys 0x80001000 == 0x80 && t.readPhys 0x80001002 == 0xA2) = true := by
  decide
theorem test_sh : after (.sh 11 12 2) (withRegs base 0x80001000 0xABCD)
    (fun t => t.mem == [(0x80001002, 0xCD), (0x80001003, 0xAB)]) = true := by decide
theorem test_sw : after (.sw 11 12 0xFFC) (withRegs base 0x80001004 0x11220044)
    (fun t => t.mem == [(0x80001000, 0x44), (0x80001002, 0x22), (0x80001003, 0x11)]) = true := by decide
theorem test_sd : after (.sd 11 12 0) (withRegs base 0x02004000 0x0123456789ABCDEF)
    (fun t => t.mtimecmp == 0x0123456789ABCDEF && t.mem == []) = true := by decide

/-! ## Virtual-machine accesses (R845, R841, R840) -/

/-- HS-mode with `hstatus.SPVP` = 1, the guest untranslated, bytes in memory (R845 row 1). -/
def guest : State := loading { hsMode with h := { hsMode.h with status := { hsMode.h.status with spvp := true } } }

theorem test_hlvB : after (.hlvB 10 11) guest (fun t => t.readX 10 == 0xFFFFFFFFFFFFFF80) = true := by decide
theorem test_hlvBu : after (.hlvBu 10 11) guest (fun t => t.readX 10 == 0x80) = true := by decide
theorem test_hlvH : after (.hlvH 10 11) guest (fun t => t.readX 10 == 0xFFFFFFFFFFFF9180) = true := by decide
theorem test_hlvHu : after (.hlvHu 10 11) guest (fun t => t.readX 10 == 0x9180) = true := by decide
theorem test_hlvW : after (.hlvW 10 11) (loading vsMode) (trappedM 22) = true := by decide
theorem test_hlvWu : after (.hlvWu 10 11) guest (fun t => t.readX 10 == 0xB3A29180) = true := by decide
theorem test_hlvD : after (.hlvD 10 11) (loading (narrow base)) (trappedM 2) = true := by decide
theorem test_hlvxHu : after (.hlvxHu 10 11) guest (fun t => t.readX 10 == 0x9180) = true := by decide
theorem test_hlvxWu : after (.hlvxWu 10 11) (loading (narrow base)) (fun t => t.readX 10 == 0xFFFFFFFFB3A29180) = true := by
  decide
theorem test_hsvB : after (.hsvB 11 12) (withRegs uMode 0x80001000 0x55) (trappedM 2) = true := by decide
theorem test_hsvH : after (.hsvH 11 12) (withRegs hsMode 0x80001000 0x1234)
    (fun t => t.mem == [(0x80001000, 0x34), (0x80001001, 0x12)]) = true := by decide
theorem test_hsvW : after (.hsvW 11 12) (withRegs vuMode 0x80001000 0x55) (trappedM 22) = true := by decide
theorem test_hsvD : after (.hsvD 11 12) (eitherOrder (withRegs { hsMode with h := { hsMode.h with status :=
    { hsMode.h.status with vsbe := true, spvp := true } } } 0x80001000 0x0102030405060708))
    (fun t => t.readPhys 0x80001000 == 1 && t.readPhys 0x80001007 == 8) = true := by decide

/-! ## System instructions (R759, R787, R945) -/

theorem test_ecall : after .ecall { vuMode with m := { vuMode.m with edeleg := 0x100 }, h := { vuMode.h with edeleg := 0x100 } }
    (fun t => t.vs.cause == 8 && t.vs.epc == 0x80000000 && !t.vs.status.spp && t.virt && t.priv == .supervisor)
    = true := by decide
theorem test_ecall_m : after .ecall base (fun t => trappedM 11 t && t.m.epc == 0x80000000 && t.m.tval == 0
    && t.mstatus.mpp == .machine) = true := by decide
theorem test_ebreak : after .ebreak uMode (fun t => trappedM 3 t && t.m.epc == 0x80000000 && t.mstatus.mpp == .user)
    = true := by decide
theorem test_mret : after .mret { base with
      mstatus := { base.mstatus with mpp := .supervisor, mpv := true, mie := true }, m := { base.m with epc := 0x4000 } }
    (fun t => t.priv == .supervisor && t.virt && !t.mstatus.mie && t.mstatus.mpie && t.mstatus.mpp == .user
      && !t.mstatus.mpv && t.pc == 0x4000) = true := by decide
theorem test_mret_denied : after .mret hsMode (fun t => trappedM 2 t && t.m.tval == 0x30200073) = true := by decide
theorem test_sret : after .sret { hsMode with
      mstatus := { hsMode.mstatus with spie := true }, s := { hsMode.s with epc := 0x1000 } }
    (fun t => t.priv == .user && t.mstatus.sie && t.mstatus.spie && t.pc == 0x1000) = true := by decide
theorem test_sret_guest : after .sret { vsMode with
      vs := { vsMode.vs with epc := 0x3000, status := { vsMode.vs.status with sie := true } } }
    (fun t => t.priv == .user && t.virt && !t.vs.status.sie && t.vs.status.spie && t.pc == 0x3000) = true := by decide
theorem test_wfi : after .wfi base (fun t => t.pc == 0x80000004) = true := by decide
theorem test_wfi_guest : after .wfi vuMode (trappedM 22) = true := by decide

/-! ## Fences (R787, R808, R845) -/

/-- Three cache entries: an HS leaf of ASID 1, a VS leaf of VMID 0, a G leaf of VMID 0, each for page 0x7000. -/
def entry (k : TcKind) : TcEntry :=
  { kind := k, asid := 1, vmid := 0, isGlobal := false, pteAddr := 0x80002000, pteVal := 0xCF, shift := 12, pre := 7
    leaf := true, fenceShift := 12 }

def cached (s : State) : State := { s with tc := [entry .hs, entry .vs, entry .g] }

/-- The kinds left in the cache. -/
def kinds (t : State) : List TcKind := t.tc.map (·.kind)

theorem test_sfenceVma : after (.sfenceVma 11 12) (withRegs (cached hsMode) 0x7123 1) (fun t => kinds t == [.vs, .g]) = true := by
  decide
theorem test_sfenceVma_guest : after (.sfenceVma 0 0) (cached { vsMode with mstatus := { vsMode.mstatus with tvm := true } })
    (fun t => kinds t == [.hs, .g]) = true := by decide
theorem test_sinvalVma : after (.sinvalVma 11 0) (withX11 (cached hsMode) 0x8000) (fun t => kinds t == [.hs, .vs, .g]) = true := by
  decide
theorem test_sfenceWInval : after .sfenceWInval { vsMode with h := { vsMode.h with status := { vsMode.h.status with vtvm := true } } }
    (fun t => t.pc == 0x80000004) = true := by decide
theorem test_sfenceInvalIr : after .sfenceInvalIr uMode (trappedM 2) = true := by decide
theorem test_hfenceVvma : after (.hfenceVvma 0 12) (withRegs (cached hsMode) 0 1) (fun t => kinds t == [.hs, .g]) = true := by
  decide
theorem test_hfenceGvma : after (.hfenceGvma 11 0) (withX11 (cached base) 0x1C00) (fun t => kinds t == [.hs, .vs]) = true := by
  decide
/-- A remembered invalid entry goes with a fence of its address (R571, R574). -/
theorem test_sinvalVma_invalid : after (.sinvalVma 11 0)
    (withX11 { hsMode with tc := [{ entry .hs with pteVal := 0 }] } 0x7000) (fun t => kinds t == []) = true := by decide
theorem test_hinvalVvma : after (.hinvalVvma 0 0) vsMode (trappedM 22) = true := by decide
theorem test_hinvalGvma : after (.hinvalGvma 0 0) { hsMode with mstatus := { hsMode.mstatus with tvm := true } } (trappedM 2)
    = true := by decide
theorem test_fence : after (.fence 8 3 3 1 2) uMode (fun t => t.pc == 0x80000004 && t.x == uMode.x) = true := by decide
theorem test_fenceI : after (.fenceI 0 0 0) base (fun t => t.pc == 0x80000004) = true := by decide

/-! ## CSR instructions (R737) -/

theorem test_csrrw : after (.csrrw 0 0xF14 5) base (fun t => trappedM 2 t && t.m.tval == 0xF1429073) = true := by decide
theorem test_csrrw_swap : after (.csrrw 11 0x340 11) { withX11 base 0x55 with m := { base.m with scratch := 0xAA } }
    (fun t => t.readX 11 == 0xAA && t.m.scratch == 0x55) = true := by decide
theorem test_csrrs : after (.csrrs 5 0x600 0) vsMode (trappedM 22) = true := by decide
theorem test_csrrs_time : after (.csrrs 5 0xC01 0)
    { vsMode with mtime := 100, m := { vsMode.m with counteren := 2 }
                  h := { vsMode.h with counteren := 2, timedelta := 0xFFFFFFFFFFFFFFF6 } }
    (fun t => t.readX 5 == 90) = true := by decide
theorem test_csrrc : after (.csrrc 5 0x304 11) { withX11 base 0x80 with m := { base.m with ie := 0x888 } }
    (fun t => t.readX 5 == 0x888 && t.m.ie == 0x808) = true := by decide
theorem test_csrrwi : after (.csrrwi 5 0x340 31) base (fun t => t.m.scratch == 31 && t.readX 5 == 0) = true := by decide
theorem test_csrrsi : after (.csrrsi 0 0x300 8) base (fun t => t.mstatus.mie && t.pc == 0x80000004) = true := by decide
theorem test_csrrci : after (.csrrci 6 0x300 8) { base with mstatus := { base.mstatus with mie := true } }
    (fun t => t.readX 6 == 0xA00000008 && !t.mstatus.mie) = true := by decide

/-- On RV32 a write of `minstret` changes its half alone and is not counted (R160, R722). -/
theorem test_minstret_half : after (.csrrwi 0 0xB02 0) (narrow { base with m := { base.m with instret := 0x1FFFFFFFF } })
    (fun t => t.m.instret == 0x100000000) = true := by decide
/-- A delegated SEIP asserted by the controller shows in `sip` and stays out of the software bit (R152, R265). -/
theorem test_sip_seip : after (.csrrsi 5 0x144 2)
    { hsMode with m := { hsMode.m with ideleg := 0x222 }, lines := { hsMode.lines with seip := true } }
    (fun t => t.readX 5 == 0x200 && t.m.ip == 2) = true := by decide

/-! ## Steps: fetch, interrupts, translation (R945, R946) -/

/-- `addi x5, x0, 1` where the step fetches. -/
def running : State := base.withFetchWord 32 0x00100293

theorem test_step_addi : stepped running (fun t => t.readX 5 == 1 && t.pc == 0x80000004) = true := by decide
/-- R946 row 1. -/
theorem test_step_interrupt : stepped { running with
      mstatus := { base.mstatus with mie := true }, m := { base.m with ie := 0x80, tvec := 0x80000101 } }
    (fun t => t.m.cause == 0x8000000000000007 && t.m.epc == 0x80000000 && t.pc == 0x8000011C && t.mstatus.mpie
      && !t.mstatus.mie) = true := by decide
/-- R946 row 10. -/
theorem test_step_guest_interrupt : stepped { vsMode with
      m := { vsMode.m with ie := 4 }, h := { vsMode.h with ideleg := 0x444, vip := 4 }
      vs := { vsMode.vs with tvec := 0x4001, status := { vsMode.vs.status with sie := true } } }
    (fun t => t.vs.cause == 0x8000000000000001 && t.pc == 0x4004 && t.virt) = true := by decide
/-- R945 row 3. -/
theorem test_step_illegal : stepped (base.withFetchWord 32 0) (fun t => trappedM 2 t && t.m.tval == 0) = true := by decide
/-- R1007: a multiply is of Volume I. -/
theorem test_step_volumeOne :
    (match step (base.withFetchWord 32 0x02C58533) with
      | .refused r => r == .volumeOne .m
      | _ => false) = true := by decide

/-- A Sv39 table at 0x80002000 that maps the gigapage at 0 to 0x80000000, readable, A and D set. -/
def paged : State :=
  withMem { hsMode with s := { hsMode.s with atp := 0x8000000000080002 } }
    [(0x80001000, 0x77), (0x80002000, 0xC3), (0x80002003, 0x20)]

theorem test_translated_load : after (.lb 10 11 0) (withX11 paged 0x1000) (fun t => t.readX 10 == 0x77) = true := by decide
/-- A write of the read-only page (R556). -/
theorem test_translated_store : after (.sb 11 12 0) (withRegs paged 0x1000 1) (fun t => trappedM 15 t && t.m.tval == 0x1000)
    = true := by decide
/-- A non-canonical address (R553). -/
theorem test_noncanonical : after (.lb 10 11 0) (withX11 paged 0x4000000000) (trappedM 13) = true := by decide

/-- VS-mode under Sv39 and Sv39x4 (R945 rows 11 and 12): the VS-stage root is at guest address 0x91000000 and maps
0x80000000 to 0x90000000; `g` is the G-stage entry for 0x91000000, and 0x90000000 has none. -/
def twoStage (g : Byte) : State :=
  withMem { vsMode with
      m := { vsMode.m with edeleg := 0x200000 }
      h := { vsMode.h with gatp := 0x8000000000080004 }, vs := { vsMode.vs with atp := 0x8000000000091000 } }
    [(0x80004010, 0x01), (0x80004011, 0x24), (0x80004013, 0x20),
     (0x80009440, g), (0x80009442, 0x08), (0x80009443, 0x20),
     (0x80200010, 0x01), (0x80200011, 0x04), (0x80200012, 0x40), (0x80200013, 0x24),
     (0x80201000, 0xCF), (0x80201003, 0x24)]

theorem test_guest_page_fault : after (.ld 10 11 0) (withX11 (twoStage 0xDF) 0x80001008)
    (fun t => t.s.cause == 21 && t.s.tval == 0x80001008 && t.h.tval == 0x24000402 && t.h.status.gva && t.h.status.spv
      && t.mstatus.spp && t.h.status.spvp && !t.virt) = true := by decide
theorem test_guest_page_fault_implicit : after (.ld 10 11 0) (withX11 (twoStage 0xDE) 0x80001008)
    (fun t => t.s.cause == 21 && t.s.tval == 0x80001008 && t.h.tval == 0x24400004 && t.h.tinst == 0x3000) = true := by
  decide

/-- A speculative walk reads no VS-stage entry from a page that the G-stage does not let it read (R573, R635). -/
theorem test_speculation_permitted :
    (({ twoStage 0xCF with cfg := { Config.reference with tcRefill := true } } : State).speculate
      { virt := true, va := 0x80001008 }).tc.all (fun e => e.kind == .g) = true := by decide

/-- SXLEN goes from 32 to 64: the Interrupt bit does not stay in the Exception Code (R52). -/
theorem test_widened_cause : after (.csrrw 0 0x300 11)
    { withX11 base 0x800000000 with
        cfg := { Config.reference with sxl := .both }
        mstatus := { base.mstatus with sxl := .x32 }, s := { base.s with cause := 0x80000007 } }
    (fun t => t.sxlen == .x64 && t.s.cause == 7) = true := by decide

/-- SXL = 1 and UXL = 2 are written together: UXLEN is 64, as R118 lets it, or 32, as R254 has it (log 28). -/
theorem test_uxl_above_sxl : (∀ unchecked, after (.csrrw 0 0x300 11)
    { withX11 base 0x600000000 with cfg := { Config.reference with sxl := .both, uxl := .both, uxlUnchecked := unchecked } }
    (fun t => t.sxlen == .x32 && t.uxlen == (if unchecked then .x64 else .x32)
      && t.csrRead .mstatus == (if unchecked then 0x600000000 else 0x500000000)) = true) := by decide

/-- With HSXLEN = 32 `hgeip` has 32 bits, so that VGEIN = 33 selects no line (R50, R356). -/
theorem test_vgein_narrow :
    let s : State := { base with
      cfg := { Config.reference with geilen := 40, sxl := .both }
      lines := { base.lines with hgeip := 0x200000000 }
      h := { base.h with status := { base.h.status with vgein := 33 } } }
    (s.vseip && !({ s with mstatus := { s.mstatus with sxl := .x32 } } : State).vseip) = true := by decide

/-- MXLEN goes from 32 to 64: SUM, read-only zero without Sv32, starts at 0, MXR stays (R52, R122). -/
theorem test_widened_sum :
    let before : State := narrow { base with mstatus := { base.mstatus with sum := true, mxr := true } }
    let t := (settle before { before with mxl := .x64 }).dropAbsent before
    (t.pagedMode && t.mstatus.mxr && !t.mstatus.sum) = true := by decide

/-- SUM of `vsstatus` is read-only zero where VSXLEN is 32 without Sv32 (R255, R390). -/
theorem test_vsstatus_sum : after (.csrrw 0 0x200 11)
    { withX11 base 0xC0000 with cfg := { Config.reference with vsxl := .only .x32 } }
    (fun t => t.vs.status.mxr && !t.vs.status.sum) = true := by decide

/-- Configurations the spec allows, and ones it does not (R260, R283, R476, R576). -/
theorem test_wf :
    ({ Config.reference with
        mcausePolicy := .trapUnsupported 5, vscausePolicy := .store 63, pmpG := 40, palen := 10, sIrqMask := 0x202 }).wf
        = true
      ∧ ({ Config.reference with
          misaExt := 0x0100100, svinval := false, svnapot := false, svpbmt := false, sv39 := false, sv48 := false
          sv39x4 := false, sv48x4 := false, mcausePolicy := .store 4, xepcLegal := .bits 34, palen := 32 }).wf = true
      ∧ (let bare (k : Nat) (zero : Word) : Config :=
          { Config.reference with
            misaExt := 0x0100100, svinval := false, svnapot := false, svpbmt := false, sv39 := false, sv48 := false
            sv39x4 := false, sv48x4 := false, xtvalLegal := .bits k, xtvalZero := zero, palen := 20 }
        (bare 22 0).wf = false ∧ (bare 33 0).wf = true ∧ (bare 22 4).wf = true)
      ∧ ({ Config.reference with stvec := { Config.anyTvec with alignDirect := 3, alignVectored := 3 } }).wf = false
      ∧ ({ Config.reference with sxl := .only .x32, sv32 := true }).wf = false
      ∧ ({ Config.reference with misaExt := 0x0101101 }).wf = false
      ∧ ({ Config.reference with scausePolicy := .store 4 }).wf = false
      ∧ ({ Config.reference with vscausePolicy := .trapUnsupported 6 }).wf = false
      ∧ ({ Config.reference with scausePolicy := .trapUnsupported 6, vscausePolicy := .trapUnsupported 6 }).wf = true
      ∧ ({ Config.reference with pma := Config.mainRegion 0x80001000 8 :: Config.reference.pma }).wf = false
      ∧ ({ Config.reference with mcausePolicy := .store 5, nmiCause := 32 }).wf = false := by decide

/-- A hart whose platform fixes a PMP entry at reset and a bit of `mideleg`, with an event counter of 40 bits. -/
def platform : State :=
  State.resetOf { Config.reference with
    pmpReset := [(1, 0x98, 0x3FF)], midelegOnes := 0x200, hpmImplemented := 8, hpmWidths := [(3, 40)] }

/-- The values the platform of `platform` fixes (R145, R162, R960). -/
theorem test_platform :
    (platform.cfg.wf && platform.pmpCfg 1 == 0x98 && platform.pmpAddrRaw 1 == 0x3FF && platform.pmpCfg 0 == 0
      && platform.csrRead .mideleg == 0x644
      && after (.csrrw 0 0xB03 11) (withX11 platform 0xFFFFFFFFFFFFFFFF)
        (fun t => t.csrRead (.mhpmcounter 3) == 0xFFFFFFFFFF)) = true := by decide

/-- The example of R478: a four-byte entry for 0xC to 0xF fails an eight-byte access to 0x8 to 0xF. -/
theorem test_pmp_partial :
    ({ base with pmpcfg := base.pmpcfg.set 0 0x17, pmpaddr := base.pmpaddr.set 0 3 } : State).pmpCheck 8 8
      { r := true, w := false, x := false } .machine = false := by decide

/-! ## Witnesses: for each statement with hypotheses, states and operands that meet them -/

theorem stepped_next (s : State) (f : State → Bool) (h : stepped s f = true) : ∃ t, step s = .next t ∧ f t = true := by
  unfold stepped at h
  split at h
  · next t e => exact ⟨t, e, h⟩
  · cases h

theorem after_next (i : Instr) (s : State) (f : State → Bool) (h : after i s f = true) :
    ∃ t, exec i s = .next t ∧ f t = true := by
  unfold after at h
  split at h
  · next t e => exact ⟨t, e, h⟩
  · cases h

/-- An access resolves. -/
def resolves (s : State) (a : Acc) (va : Word) : Bool :=
  match s.resolve a va with
  | .ok _ _ => true
  | .exn _ _ => false

theorem resolves_ok (s : State) (a : Acc) (va : Word) (h : resolves s a va = true) : ∃ pas t, s.resolve a va = .ok pas t := by
  unfold resolves at h
  split at h
  · next pas t e => exact ⟨pas, t, e⟩
  · cases h

theorem resolves_exn (s : State) (a : Acc) (va : Word) (h : resolves s a va = false) : ∃ e t, s.resolve a va = .exn e t := by
  unfold resolves at h
  split at h
  · cases h
  · next e t k => exact ⟨e, t, k⟩

theorem test_witness_DecodeEncodeRoundTrip :
    (Instr.jal 1 0x1FFFFE).WellFormed = true ∧ (Instr.bgeu 31 0 0x1000).WellFormed = true := by decide

theorem test_witness_EncodeDecodedWord : decodeWord 0xFFDFF06F = some (.jal 0 0x1FFFFC) := by decide

theorem test_witness_StepRunsDecodedInstruction :
    (running.cfg.wf = true ∧ running.event.reset = false ∧ running.event.nmi = false ∧ running.begin.sleeps = false
      ∧ running.begin.awake.interrupt = none
      ∧ running.begin.awake.fetch = .ok [0x93, 0x02, 0x10, 0x00] running.begin.awake
      ∧ decodeBytes [0x93, 0x02, 0x10, 0x00] = .instr (.addi 5 0 1) 4
      ∧ running.begin.awake.usable (.addi 5 0 1) 4 = true)
    ∧ base.priv = .machine ∧ base.hasC = false
      ∧ base.physAllowed { kind := .fetch, n := 4 } .machine
          { pa := (zxTo base.mxlen base.pc).toNat, gPbmt := 0, sPbmt := 0 } 4 4 = true := by decide

theorem test_witness_StepStopsOnlyForVolumeOne :
    base.cfg.wf = true ∧ step (base.withFetchWord 32 0x02C58533) = .refused (.volumeOne .m) := by
  refine ⟨by decide, ?_⟩
  have h := test_step_volumeOne
  split at h
  · next r e => rw [e, beq_iff_eq.1 h]
  · cases h

/-- A step that stores a byte. -/
def storing : State := (withRegs base 0x80001000 0x55).withFetchWord 32 0x00C58023

theorem test_witness_StepKeepsMemoryCanonical :
    Memory.wf storing.mem = true ∧ ∃ t, step storing = .next t ∧ (t.readPhys 0x80001000 == 0x55) = true :=
  ⟨by decide, stepped_next _ _ (by decide)⟩

/-- A step that executes MRET into VS-mode, with MPRV set before. -/
def returning : State :=
  { base with
      mstatus := { base.mstatus with mpp := .supervisor, mpv := true, mprv := true }
      m := { base.m with epc := 0x80000100 } }.withFetchWord 32 0x30200073

theorem test_witness_StepKeepsModeLegal :
    returning.ModeInv ∧ ∃ t, step returning = .next t ∧ (t.virt && t.priv == .supervisor && !t.mstatus.mprv) = true :=
  ⟨by simp only [State.ModeInv]; decide, stepped_next _ _ (by decide)⟩

theorem test_witness_StepKeepsPcAligned :
    returning.PcInv ∧ ∃ t, step returning = .next t ∧ (t.pc == 0x80000100) = true :=
  ⟨by simp only [State.PcInv]; decide, stepped_next _ _ (by decide)⟩

/-- Entry 1 is a locked TOR entry; the step tries to write its address and the one below. -/
def locked : State :=
  { withX11 base 0x1234 with pmpcfg := base.pmpcfg.set 1 0x88 }.withFetchWord 32 0x3B059073

theorem test_witness_LockedPmpEntryStays :
    locked.event.reset = false ∧ pmpLocked (locked.pmpCfg 1) = true ∧ locked.cfg.mxlWritable = false
      ∧ pmpA (locked.pmpCfg 1) = 1
      ∧ ∃ t, step locked = .next t ∧ (t.pc == 0x80000004 && t.pmpAddrRaw 0 == 0x3FFFFFFFFFFFFF) = true :=
  ⟨by decide, by decide, by decide, by decide, stepped_next _ _ (by decide)⟩

theorem test_witness_LowerModesKeepMachineState :
    uMode.priv ≠ .machine
      ∧ (∃ t, exec (.addi 1 0 1) uMode = .next t ∧ (t.priv != .machine) = true)
      ∧ (∃ t, exec (.addi 1 0 1) { uMode with mstatus := { uMode.mstatus with mprv := true } } = .next t
          ∧ t.mstatus.mprv = true)
      ∧ ((∀ k ∈ [3, 7, 11], hsMode.sShows k = false ∧ hsMode.hShows k = false ∧ hsMode.vsShows k = false)
        ∧ hsMode.sShows 1 = false)
      ∧ ∃ t, exec .ecall uMode = .next t ∧ (t.priv == .machine) = true :=
  ⟨by decide, after_next _ _ (fun t => t.priv != .machine) (by decide),
    after_next _ _ (fun t => t.mstatus.mprv) (by decide), by decide, after_next _ _ (fun t => t.priv == .machine) (by decide)⟩

theorem test_witness_OnlyTrapsAndReturnsChangeMode :
    Instr.ecall ≠ .mret ∧ Instr.ecall ≠ .sret ∧ ∃ t, exec .ecall vsMode = .next t ∧ (t.priv == .machine) = true :=
  ⟨by decide, by decide, after_next _ _ (fun t => t.priv == .machine) (by decide)⟩

/-- Without the hypervisor extension. -/
def noH (s : State) : State := { s with ext := 0x0141101 }

theorem test_witness_TrapEntryMachineAndSupervisor : vsMode.hasH = true ∧ (noH base).hasH = false := by decide
theorem test_witness_TrapEntryVirtualSupervisor :
    ({ vuMode with m := { vuMode.m with edeleg := 0x100 }, h := { vuMode.h with edeleg := 0x100 } } : State).exceptionTarget
      .ecallU = .vs := by decide

/-- Nothing is taken into M-mode if no code below 64 is. -/
theorem takesM_none (s : State) (h : ∀ j, j < 64 → s.takesM j = false) (j : Nat) : s.takesM j = false := by
  by_cases hj : j < 64
  · exact h j hj
  · have : s.mip.getLsbD j = false := BitVec.getLsbD_of_ge _ _ (by omega)
    simp [State.takesM, this]

theorem takesHS_none (s : State) (h : ∀ j, j < 64 → s.takesHS j = false) (j : Nat) : s.takesHS j = false := by
  by_cases hj : j < 64
  · exact h j hj
  · have : s.mip.getLsbD j = false := BitVec.getLsbD_of_ge _ _ (by omega)
    simp [State.takesHS, this]

/-- M-mode with MSI and MTI pending and enabled. -/
def intM : State := { base with msip := true, mstatus := { base.mstatus with mie := true }, m := { base.m with ie := 0x888 } }

/-- U-mode with STI pending, enabled and delegated. -/
def intS : State := { uMode with m := { uMode.m with ip := 0x20, ie := 0x20, ideleg := 0x222 } }

/-- VU-mode with VSSI pending, enabled and delegated. -/
def intVS : State := { vuMode with m := { vuMode.m with ie := 4 }, h := { vuMode.h with ideleg := 0x444, vip := 4 } }

theorem test_witness_InterruptsIntoMachineMode : intM.interrupt = some (.m, 3) ∧ intM.takesM 7 = true := by decide
theorem test_witness_InterruptsIntoSupervisorMode :
    intS.interrupt = some (.s, 5) ∧ (∀ j, intS.takesM j = false) ∧ intS.takesHS 5 = true :=
  ⟨by decide, takesM_none _ (by decide), by decide⟩
theorem test_witness_InterruptsIntoVirtualSupervisorMode :
    intVS.interrupt = some (.vs, 2) ∧ (∀ j, intVS.takesM j = false) ∧ (∀ j, intVS.takesHS j = false)
      ∧ intVS.takesVS 2 = true :=
  ⟨by decide, takesM_none _ (by decide), takesHS_none _ (by decide), by decide⟩
theorem test_witness_InterruptServiceOrder : intM.interrupt = some (.m, 3) ∧ intM.takes .m 7 = true := by decide
theorem test_witness_NoDownwardTraps : intS.interrupt = some (.s, 5) := by decide

/-- The next event is an NMI. -/
def nmi : State := { vuMode with env := [{ EnvEvent.quiet vuMode.lines with nmi := true }] }

theorem test_witness_NmiEntersMachineMode :
    nmi.cfg.wf = true ∧ nmi.event.reset = false ∧ nmi.event.nmi = true ∧ nmi.hasH = true := by decide

/-- The next event is a reset. -/
def resetting : State := { vuMode with env := [{ EnvEvent.quiet vuMode.lines with reset := true }] }

theorem test_witness_ResetState :
    Config.reference.mbe ≠ .bigOnly ∧ resetting.cfg.wf = true ∧ resetting.event.reset = true
      ∧ (Config.reference.pmpReset.lookup 0 = none
        ∧ platform.cfg.wf = true ∧ platform.cfg.pmpReset.lookup 1 = some (0x98, 0x3FF)) := by decide

theorem test_witness_ShiftImmediate :
    (63#6).toNat < base.xlen.bits ∧ (31#6).toNat < (narrow base).xlen.bits ∧ (narrow base).xlen.bits ≤ (32#6).toNat := by
  decide
theorem test_witness_WordComputation : base.xlen = .x64 := by decide
theorem test_witness_WideInstructionsIllegalOnRv32 : (narrow base).xlen = .x32 := by decide

theorem test_witness_JumpAndLink :
    (base.pc + (8#21).signExtend 64).toNat % base.ialign = 0
      ∧ (base.pc + (0x1FFFFE#21).signExtend 64).toNat % base.ialign ≠ 0 := by decide

theorem test_witness_Branches :
    decide (natOf base.xlen (base.readX 1) = natOf base.xlen (base.readX 2)) = true
      ∧ decide (natOf base.xlen (base.readX 1) ≠ natOf base.xlen (base.readX 2)) = false
      ∧ (base.pc + (0x1FFC#13).signExtend 64).toNat % base.ialign = 0
      ∧ (base.pc + (2#13).signExtend 64).toNat % base.ialign ≠ 0 := by decide

theorem test_witness_LoadsComplete :
    (loading base).xlen = .x64 ∧ ∀ row ∈ plainLoads, ∃ pas t,
      (loading base).resolve { kind := .load, n := row.2.1 }
        (zxTo (loading base).xlen ((loading base).readX 11 + (0#12).signExtend 64)) = .ok pas t :=
  ⟨by decide, fun row h => resolves_ok _ _ _
    ((by decide : ∀ n ∈ plainLoads.map (·.2.1), resolves (loading base) { kind := .load, n := n }
      (zxTo (loading base).xlen ((loading base).readX 11 + (0#12).signExtend 64)) = true) _ (List.mem_map_of_mem h))⟩

/-- A state of `loading` has canonical memory. -/
theorem test_witness_StoresComplete :
    Memory.wf (loading base).mem = true ∧ (loading base).xlen = .x64 ∧ ∀ row ∈ plainStores, ∃ pas t,
      (loading base).resolve { kind := .store, n := row.2.1 }
        (zxTo (loading base).xlen ((loading base).readX 11 + (0#12).signExtend 64)) = .ok pas t :=
  ⟨by decide, by decide, fun row h => resolves_ok _ _ _
    ((by decide : ∀ n ∈ plainStores.map (·.2.1), resolves (loading base) { kind := .store, n := n }
      (zxTo (loading base).xlen ((loading base).readX 11 + (0#12).signExtend 64)) = true) _ (List.mem_map_of_mem h))⟩

theorem test_witness_LoadStoreFaults :
    (∀ row ∈ plainLoads, ∃ e t,
      base.resolve { kind := .load, n := row.2.1 } (zxTo base.xlen (base.readX 0 + (0#12).signExtend 64)) = .exn e t)
    ∧ ∀ row ∈ plainStores, ∃ e t,
      base.resolve { kind := .store, n := row.2.1 } (zxTo base.xlen (base.readX 0 + (0#12).signExtend 64)) = .exn e t :=
  ⟨fun row h => resolves_exn _ _ _
    ((by decide : ∀ n ∈ plainLoads.map (·.2.1), resolves base { kind := .load, n := n }
      (zxTo base.xlen (base.readX 0 + (0#12).signExtend 64)) = false) _ (List.mem_map_of_mem h)),
  fun row h => resolves_exn _ _ _
    ((by decide : ∀ n ∈ plainStores.map (·.2.1), resolves base { kind := .store, n := n }
      (zxTo base.xlen (base.readX 0 + (0#12).signExtend 64)) = false) _ (List.mem_map_of_mem h))⟩

/-- The last doubleword of memory is allowed, the one after it is not. -/
theorem test_witness_MachineAccessIsUntranslated :
    base.priv = .machine ∧ base.mstatus.mprv = false ∧ (zxTo base.mxlen 0x87FFFFF8).toNat % 8 = 0
      ∧ base.physAllowed { kind := .load, n := 8 } .machine
          { pa := (zxTo base.mxlen 0x87FFFFF8).toNat, gPbmt := 0, sPbmt := 0 } 8 8 = true
      ∧ (zxTo base.mxlen 0x88000000).toNat % 8 = 0
      ∧ base.physAllowed { kind := .store, n := 8 } .machine
          { pa := (zxTo base.mxlen 0x88000000).toNat, gPbmt := 0, sPbmt := 0 } 8 8 = false := by decide

theorem test_witness_StoreThenLoad :
    Memory.wf (loading base).mem = true ∧ (loading base).priv = .machine ∧ (loading base).mxlen = .x64
      ∧ (loading base).mstatus.mprv = false
      ∧ ((loading base).readX 11 + (0xFF8#12).signExtend 64).toNat = 0x80000FF8 ∧ 0x80000FF8 % 8 = 0
      ∧ (∀ k, k < 8 → (loading base).plainAddr (0x80000FF8 + k) = true)
      ∧ (loading base).physAllowed { kind := .store, n := 8 } .machine
          { pa := 0x80000FF8, gPbmt := 0, sPbmt := 0 } 8 8 = true
      ∧ (loading base).physAllowed { kind := .load, n := 8 } .machine
          { pa := 0x80000FF8, gPbmt := 0, sPbmt := 0 } 8 8 = true := by decide

/-- U-mode with `hstatus.HU` = 1. -/
def guestUser : State := { guest with priv := .user, h := { guest.h with status := { guest.h.status with hu := true } } }

theorem test_witness_GuestLoadsComplete :
    GuestAccessPermitted guest true ∧ GuestAccessPermitted guestUser true ∧ ∀ row ∈ guestLoads, ∃ pas t,
      guest.resolve { kind := .load, n := row.2.1, hlv := true, hlvx := row.2.2.2.2 }
        (zxTo guest.xlen (guest.readX 11)) = .ok pas t :=
  ⟨by simp only [GuestAccessPermitted]; decide, by simp only [GuestAccessPermitted]; decide,
    fun row h => resolves_ok _ _ _
      ((by decide : ∀ p ∈ guestLoads.map (fun r => (r.2.1, r.2.2.2.2)),
          resolves guest { kind := .load, n := p.1, hlv := true, hlvx := p.2 } (zxTo guest.xlen (guest.readX 11)) = true)
        _ (List.mem_map_of_mem (f := fun r : (RegIdx → RegIdx → Instr) × Nat × Bool × Bool × Bool => (r.2.1, r.2.2.2.2)) h))⟩

theorem test_witness_GuestStoresComplete :
    Memory.wf guest.mem = true ∧ GuestAccessPermitted guest true ∧ ∀ row ∈ guestStores, ∃ pas t,
      guest.resolve { kind := .store, n := row.2.1, hlv := true } (zxTo guest.xlen (guest.readX 11)) = .ok pas t :=
  ⟨by decide, by simp only [GuestAccessPermitted]; decide, fun row h => resolves_ok _ _ _
    ((by decide : ∀ n ∈ guestStores.map (·.2.1),
        resolves guest { kind := .store, n := n, hlv := true } (zxTo guest.xlen (guest.readX 11)) = true)
      _ (List.mem_map_of_mem h))⟩

theorem test_witness_GuestAccessPermission :
    (noH base).hasH = false ∧ (base.hasH = true ∧ (narrow base).xlen = .x32) ∧ (vsMode.hasH = true ∧ vsMode.xlen = .x64
      ∧ vsMode.virt = true) ∧ (uMode.hasH = true ∧ uMode.virt = false ∧ uMode.priv = .user
      ∧ uMode.h.status.hu = false) := by decide

/-- The lowest address above the lower half of Sv39. -/
theorem test_witness_NonCanonicalAddressFaults :
    paged.effMode { kind := .load, n := 8 } = (.supervisor, false) ∧ paged.xlenOf .supervisor false = .x64
      ∧ (0x4000000000#64).toNat % 8 = 0 ∧ paged.hsScheme = some sv39 ∧ sv39.pteSize = 8
      ∧ ¬ ∃ low : Int, -(2 ^ (sv39.vaBits - 1)) ≤ low ∧ low < 2 ^ (sv39.vaBits - 1)
          ∧ (0x4000000000#64) = BitVec.ofInt 64 low := by
  refine ⟨by decide, by decide, by decide, by decide, by decide, ?_⟩
  rintro ⟨low, h1, h2, h3⟩
  simp only [sv39] at h1 h2
  have h4 := congrArg BitVec.toInt h3
  rw [BitVec.toInt_ofInt] at h4
  have h5 : (0x4000000000#64 : BitVec 64).toInt = 274877906944 := by decide
  rw [h5, Int.bmod_eq_of_le (by norm_num at *; omega) (by norm_num at *; omega)] at h4
  norm_num at *
  omega

/-- Entries that are OFF, TOR, NA4 and NAPOT, with three trailing ones in the last address. -/
def fourEntries : State :=
  { base with pmpcfg := ((base.pmpcfg.set 0 0x00).set 1 0x0F).set 2 0x17 |>.set 3 0x1F
              pmpaddr := ((base.pmpaddr.set 0 2).set 1 5).set 2 9 |>.set 3 0x107 }

/-- Entry 0 matches every byte of memory here; with every entry OFF none matches. The four entries match the bytes 8 to
0x13, 0x24 to 0x27 and 0x400 to 0x43F, and what lies next to them not. -/
theorem test_witness_PmpLowestMatchDecides :
    ((List.range 4).map (fun i => pmpA (fourEntries.pmpCfg i)) = [0, 1, 2, 3]
      ∧ (fourEntries.csrRead (.pmpaddr 3)).toNat % 2 ^ (3 + 1) = 2 ^ 3 - 1
      ∧ [7, 8, 0x13, 0x14].map (fourEntries.pmpMatches 1) = [false, true, true, false]
      ∧ [0x23, 0x24, 0x27, 0x28].map (fourEntries.pmpMatches 2) = [false, true, true, false]
      ∧ [0x3FF, 0x400, 0x43F, 0x440].map (fourEntries.pmpMatches 3) = [false, true, true, false])
    ∧ (∀ i, i < State.reset.cfg.pmpCount → ∀ k, k < 8 → State.reset.pmpMatches i (0x80000000 + k) = false)
    ∧ 0 < base.cfg.pmpCount ∧ (∃ k, k < 8 ∧ base.pmpMatches 0 (0x80000000 + k) = true)
    ∧ ∀ j, j < 0 → ∀ k, k < 8 → base.pmpMatches j (0x80000000 + k) = false := by decide

/-- The load of `paged`, whose leaf is in the root table; and the G-stage walk of `twoStage` for 0x91000000, which comes
from the root to the table at 0x80009000. -/
theorem test_witness_PageTableWalk :
    (paged.noCache ∧ paged.hsScheme = some sv39 ∧ canonical sv39 0x1000 = true
      ∧ paged.WalkReaches (paged.satpWalk sv39 .load .supervisor { kind := .load, va := 0x1000, guest := false, ea := 0x1000 })
          2 0x80002000)
    ∧ ((twoStage 0xDF).noCache ∧ schemeOf (twoStage 0xDF).sxlen (twoStage 0xDF).h.gatp = some sv39
      ∧ 0x91000000 < 2 ^ (sv39.vaBits + 2)
      ∧ (twoStage 0xDF).WalkReaches ((twoStage 0xDF).hgatpWalk sv39 0x91000000 .load false (some false)
          { kind := .load, va := 0x80001008, guest := true, ea := 0x80001008 }) 1 0x80009000) := by
  refine ⟨⟨by simp only [State.noCache]; decide, by decide, by decide, .root⟩,
    by simp only [State.noCache]; decide, by decide, by decide, ?_⟩
  have h := State.WalkReaches.down 1 _ (.root (s := twoStage 0xDF)
    (w := (twoStage 0xDF).hgatpWalk sv39 0x91000000 .load false (some false)
      { kind := .load, va := 0x80001008, guest := true, ea := 0x80001008 }))
    (by decide) (by simp only [State.EntryInvalid]; decide) (by decide) (by decide)
  exact h

/-- `twoStage` with a VS-stage root beyond the reach of Sv39x4. -/
def farRoot : State := { twoStage 0xDF with vs := { (twoStage 0xDF).vs with atp := 0x8000000040000000 } }

theorem test_witness_GuestPageFaults :
    (schemeOf vsMode.vsxlen vsMode.vs.atp = none ∧ schemeOf vsMode.sxlen vsMode.h.gatp = none)
      ∧ (schemeOf farRoot.sxlen farRoot.h.gatp = some sv39 ∧ 2 ^ (sv39.vaBits + 2) ≤ 0x20000000000)
      ∧ (farRoot.tc = [] ∧ schemeOf farRoot.vsxlen farRoot.vs.atp = some sv39)
      ∧ canonical sv39 0x4000000000 = false
      ∧ (canonical sv39 0x1000 = true ∧ 2 ^ (sv39.vaBits + 2) ≤ farRoot.vsRootEntry sv39 0x1000)
      ∧ vsMode.hasH = true := by decide

/-- The load of `twoStage`: its VS-stage walk reads the root entry at 0x80200010 and comes to the table at the guest
address 0x91001000, whose entry is at 0x80201000. In the other state the G-stage denies the read of the root entry. -/
theorem test_witness_GuestPageFaults_walk :
    let o : Orig := { kind := .load, va := 0x80001008, guest := true, ea := 0x80001008 }
    let w := (twoStage 0xDF).vsatpWalk sv39 .load false .supervisor o
    ((twoStage 0xDF).noCache ∧ schemeOf (twoStage 0xDF).vsxlen (twoStage 0xDF).vs.atp = some sv39
      ∧ canonical sv39 o.va = true)
    ∧ (twoStage 0xDF).GuestWalkReaches w o 1 0x91001000
    ∧ (twoStage 0xDF).EntryAt o (w.entryAddr 1 0x91001000) false 0x80201000
    ∧ ((twoStage 0xDF).cfg.adUpdate ≠ .hardware)
    ∧ ∃ e t, (twoStage 0xDE).gTranslate 0x91000010 .load false (some false) o false = .exn e t := by
  refine ⟨⟨by simp only [State.noCache]; decide, by decide, by decide⟩, ?_, ⟨0, by decide⟩, by decide, ?_⟩
  · exact State.GuestWalkReaches.down 1 _ 0x80200010 .root ⟨0, by decide⟩ (by decide)
      (by simp only [State.EntryInvalid]; decide) (by decide) (by decide)
  · exact ⟨Orig.guestFault { kind := .load, va := 0x80001008, guest := true, ea := 0x80001008 } 0x91000010 (some false),
      twoStage 0xDE, by decide⟩

theorem test_witness_DeviceRegisters :
    (base.priv = .machine ∧ base.mxlen = .x64 ∧ base.mstatus.mprv = false ∧ base.mbe = false)
      ∧ (base.cfg.mtimecmpAddr + 8 ≤ base.cfg.mtimeAddr ∧ base.cfg.msipAddr + 8 ≤ base.cfg.mtimeAddr
        ∧ base.cfg.msipAddr + 8 ≤ base.cfg.mtimecmpAddr)
      ∧ (((withX11 base 0x02004000).readX 11 + (0#12).signExtend 64).toNat = base.cfg.mtimecmpAddr
        ∧ base.physAllowed { kind := .store, n := 8 } .machine { pa := 0x02004000, gPbmt := 0, sPbmt := 0 } 8 8 = true)
      ∧ (((withX11 base 0x02004000).readX 11 + (4#12).signExtend 64).toNat = base.cfg.mtimecmpAddr + 4
        ∧ base.physAllowed { kind := .store, n := 4 } .machine { pa := 0x02004004, gPbmt := 0, sPbmt := 0 } 4 4 = true
        ∧ base.physAllowed { kind := .store, n := 4 } .machine { pa := 0x02004000, gPbmt := 0, sPbmt := 0 } 4 4 = true)
      ∧ (((withX11 base 0x02000000).readX 11 + (0#12).signExtend 64).toNat = base.cfg.msipAddr
        ∧ base.physAllowed { kind := .store, n := 4 } .machine { pa := 0x02000000, gPbmt := 0, sPbmt := 0 } 4 4 = true)
      ∧ (((withX11 base 0x0200BFF8).readX 11 + (0#12).signExtend 64).toNat = base.cfg.mtimeAddr
        ∧ base.physAllowed { kind := .load, n := 8 } .machine { pa := 0x0200BFF8, gPbmt := 0, sPbmt := 0 } 8 8 = true) := by
  decide

theorem test_witness_MretReturns : base.priv = .machine ∧ uMode.priv ≠ .machine := by decide

/-- A hart without S-mode. -/
def noS (s : State) : State := { s with ext := 0x0101101 }

/-- TSR, TVM and TW set, and their guest counterparts. -/
def trapping (s : State) : State :=
  { s with mstatus := { s.mstatus with tsr := true, tvm := true }
           h := { s.h with status := { s.h.status with vtsr := true, vtvm := true, vtw := true } } }

/-- HS-mode with TW set. -/
def timed : State := { hsMode with mstatus := { hsMode.mstatus with tw := true } }

theorem test_witness_SretReturns :
    (hsMode.hasS = true ∧ hsMode.virt = false ∧ hsMode.priv = .supervisor ∧ hsMode.mstatus.tsr = false)
      ∧ (base.hasS = true ∧ base.virt = false ∧ base.priv = .machine)
      ∧ (vsMode.hasS = true ∧ vsMode.virt = true ∧ vsMode.priv = .supervisor ∧ vsMode.h.status.vtsr = false)
      ∧ (noS base).hasS = false ∧ (uMode.virt = false ∧ uMode.priv = .user)
      ∧ ((trapping hsMode).priv = .supervisor ∧ (trapping hsMode).virt = false
          ∧ (trapping hsMode).mstatus.tsr = true)
      ∧ (vuMode.hasS = true ∧ vuMode.virt = true ∧ vuMode.priv = .user)
      ∧ ((trapping vsMode).hasS = true ∧ (trapping vsMode).virt = true ∧ (trapping vsMode).priv = .supervisor
          ∧ (trapping vsMode).h.status.vtsr = true) := by decide

theorem test_witness_WfiCompletes :
    base.priv = .machine ∧ (hsMode.priv = .supervisor ∧ hsMode.virt = false ∧ hsMode.mstatus.tw = false)
      ∧ ((noS uMode).priv = .user ∧ (noS uMode).virt = false ∧ (noS uMode).hasS = false
          ∧ (noS uMode).mstatus.tw = false)
      ∧ (vsMode.priv = .supervisor ∧ vsMode.virt = true ∧ vsMode.mstatus.tw = false
          ∧ vsMode.h.status.vtw = false)
      ∧ base.cfg.twLimit = 0
      ∧ (timed.priv ≠ .machine ∧ timed.mstatus.tw = true)
      ∧ (uMode.priv = .user ∧ uMode.virt = false ∧ uMode.hasS = true)
      ∧ (vuMode.virt = true ∧ vuMode.mstatus.tw = false ∧ vuMode.priv = .user)
      ∧ ((trapping vsMode).virt = true ∧ (trapping vsMode).mstatus.tw = false ∧ (trapping vsMode).priv = .supervisor
          ∧ (trapping vsMode).h.status.vtw = true) := by decide

theorem test_witness_SfenceVmaFences :
    (hsMode.hasS = true ∧ hsMode.cfg.sfenceBareIllegal = false ∧ hsMode.virt = false ∧ hsMode.priv = .supervisor
        ∧ hsMode.mstatus.tvm = false ∧ hsMode.cfg.svinval = true)
      ∧ (base.virt = false ∧ base.priv = .machine)
      ∧ (vsMode.hasS = true ∧ vsMode.virt = true ∧ vsMode.priv = .supervisor ∧ vsMode.h.status.vtvm = false) := by decide

theorem test_witness_HfenceVvmaFences :
    (trapping hsMode).hasH = true ∧ (trapping hsMode).virt = false ∧ (trapping hsMode).priv ≠ .user
      ∧ (trapping hsMode).cfg.svinval = true := by decide

theorem test_witness_HfenceGvmaFences :
    base.hasH = true ∧ base.virt = false ∧ base.priv = .machine
      ∧ (hsMode.priv = .supervisor ∧ hsMode.virt = false ∧ hsMode.mstatus.tvm = false)
      ∧ hsMode.cfg.svinval = true := by decide

theorem test_witness_OrderingFences : vsMode.cfg.svinval = true ∧ vsMode.priv ≠ .user := by decide

/-- A hart without Svinval and without a paged scheme, whose SFENCE.VMA is then illegal. -/
def noPaging (s : State) : State :=
  { s with
    ext := 0x0141101
    cfg := { s.cfg with
      misaExt := 0x0141101, svinval := false, sfenceBareIllegal := true, sv39 := false, sv48 := false
      svnapot := false, svpbmt := false } }

theorem test_witness_FencePermission :
    ((noPaging base).cfg.wf = true ∧ (noPaging base).cfg.svinval = false ∧ (noPaging base).hasH = false
        ∧ (noPaging base).cfg.sfenceBareIllegal = true
        ∧ pagedAt (noPaging base).cfg (noPaging base).sxlen = false)
      ∧ (noS base).hasS = false
      ∧ (uMode.virt = false ∧ uMode.priv = .user ∧ uMode.cfg.svinval = true)
      ∧ ((trapping hsMode).virt = false ∧ (trapping hsMode).priv = .supervisor
          ∧ (trapping hsMode).mstatus.tvm = true)
      ∧ (vuMode.hasS = true ∧ vuMode.hasH = true ∧ vuMode.cfg.sfenceBareIllegal = false ∧ vuMode.cfg.svinval = true
          ∧ vuMode.virt = true ∧ vuMode.priv = .user)
      ∧ ((trapping vsMode).hasS = true ∧ (trapping vsMode).virt = true ∧ (trapping vsMode).priv = .supervisor
          ∧ (trapping vsMode).h.status.vtvm = true) := by decide

/-- A hart on which `mcause` and `scause` trap on unsupported codes and `hstatus` on a VGEIN that does not exist. -/
def strictCodes : State :=
  { base with
    cfg := { Config.reference with
      mcausePolicy := .trapUnsupported 6, scausePolicy := .trapUnsupported 5, geilen := 4, vgeinTraps := true } }

theorem test_witness_CsrInstructionsComplete :
    csrOf 0x340 = some .mscratch ∧ base.csrCheck 0x340 true = .ok
      ∧ csrOf 0xF14 = some .mhartid ∧ base.csrCheck 0xF14 false = .ok
      ∧ csrOf 0x180 = some .satp ∧ vsMode.csrCheck 0x180 true = .ok
      ∧ csrOf 0xB02 = some .minstret ∧ base.csrCheck 0xB02 true = .ok
      ∧ csrOf 0x301 = some .misa ∧ base.csrCheck 0x301 true = .ok
      ∧ (strictCodes.cfg.wf = true ∧ csrOf 0x342 = some .mcause ∧ strictCodes.csrCheck 0x342 true = .ok)
      ∧ (strictCodes.RefusesWlrl .mcause 32 ∧ ¬ strictCodes.RefusesWlrl .mcause 31)
      ∧ (strictCodes.RefusesWlrl .scause 32 ∧ ¬ strictCodes.RefusesWlrl .scause 31)
      ∧ (strictCodes.RefusesWlrl .hstatus 0x5000 ∧ ¬ strictCodes.RefusesWlrl .hstatus 0x4000)
      ∧ ¬ strictCodes.RefusesWlrl .mscratch 32 :=
  ⟨by decide, by decide, by decide, by decide, by decide, by decide, by decide, by decide, by decide, by decide,
    by decide, ⟨⟨6, rfl, by decide⟩, fun ⟨b, hb, h⟩ => by cases hb; exact absurd h (by decide)⟩,
    ⟨⟨5, rfl, by decide⟩, fun ⟨b, hb, h⟩ => by cases hb; exact absurd h (by decide)⟩,
    ⟨⟨rfl, by decide, by decide⟩, fun h => absurd h.2.2 (by decide)⟩, fun h => h⟩

theorem test_witness_CsrAccessRefused :
    hsMode.virt = false ∧ hsMode.csrAt hsMode.xlen 0x7B0 = none
      ∧ (hsMode.priv = .supervisor ∧ (0x300#12).extractLsb' 8 2 = 3#2)
      ∧ (uMode.priv = .user ∧ (0x100#12).extractLsb' 8 2 ≠ 0#2)
      ∧ (0xF14#12).extractLsb' 10 2 = 3#2
      ∧ ((trapping hsMode).priv = .supervisor ∧ (trapping hsMode).mstatus.tvm = true)
      ∧ (CounterAddress 0xC00 0 ∧ CounterAddress 0xC9F 31)
      ∧ (hsMode.priv ≠ .machine ∧ hsMode.m.counteren.getLsbD 31 = false)
      ∧ (uMode.priv = .user ∧ uMode.hasS = true ∧ uMode.s.counteren.getLsbD 0 = false) := by
  simp only [CounterAddress]; decide

theorem test_witness_CsrAccessFromGuest :
    vsMode.virt = true ∧ csrOf 0x7B0 = none ∧ (0x300#12).extractLsb' 8 2 = 3#2 ∧ (0xE12#12).extractLsb' 10 2 = 3#2
      ∧ (csrOf 0x61A = some .henvcfgh ∧ vsMode.csrExists vsMode.xlen .henvcfgh = false)
      ∧ (csrOf 0x600 = some .hstatus ∧ CsrReg.highHalf .hstatus = false ∧ (0x600#12).extractLsb' 8 2 = 2#2
        ∧ vsMode.csrExists vsMode.xlen .hstatus = true ∧ (0x600#12).extractLsb' 10 2 ≠ 3#2)
      ∧ ((narrow vsMode).xlen = .x32 ∧ (narrow vsMode).csrExists .x32 .henvcfgh = true)
      ∧ (vuMode.priv = .user ∧ csrOf 0x100 = some .sstatus ∧ (0x100#12).extractLsb' 8 2 = 1#2
        ∧ vuMode.csrExists vuMode.xlen .sstatus = true)
      ∧ (csrOf 0x180 = some .satp ∧ (trapping vsMode).csrExists .x64 .satp = true
        ∧ (trapping vsMode).priv = .supervisor ∧ (trapping vsMode).h.status.vtvm = true)
      ∧ (CounterAddress 0xC00 0 ∧ vuMode.m.counteren.getLsbD 0 = false)
      ∧ (∃ s : State, s.priv = .user ∧ s.virt = true ∧ s.m.counteren.getLsbD 0 = true
        ∧ s.h.counteren.getLsbD 0 = false ∧ s.s.counteren.getLsbD 0 = false) :=
  ⟨by decide, by decide, by decide, by decide, by decide, by decide, by decide, by decide, by decide,
    by simp only [CounterAddress]; decide, { vuMode with m := { vuMode.m with counteren := 1 } }, by decide⟩

theorem test_witness_ScratchRegistersSwap :
    (base.priv = .machine ∧ base.virt = false) ∧ (hsMode.hasS = true ∧ hsMode.priv = .supervisor ∧ hsMode.virt = false)
      ∧ (vsMode.hasS = true ∧ vsMode.priv = .supervisor ∧ vsMode.virt = true) := by decide

theorem test_witness_SdSummarisesDirtyState :
    (base.hasS = true ∧ base.virt = false ∧ base.priv ≠ .user) ∧ hsMode.priv ≠ .user := by decide

theorem test_witness_SeipReadModifyWrite :
    (base.priv = .machine ∧ base.virt = false ∧ base.hasS = true ∧ base.hasH = true)
      ∧ (hsMode.priv ≠ .user ∧ hsMode.virt = false ∧ hsMode.hasS = true ∧ hsMode.hasH = true) := by decide

/-- Mode 10 (Sv57) and Sv32, which the reference configuration does not support, and the reserved mode 1. -/
theorem test_witness_SatpUnsupportedModeIgnored :
    (base.priv = .machine ∧ base.virt = false ∧ base.hasS = true ∧ base.sxlen = .x64)
      ∧ (hsMode.priv = .supervisor ∧ hsMode.mstatus.tvm = false)
      ∧ (0xA000000000000001#64).toNat / 2 ^ 60 = 10 ∧ base.cfg.sv57 = false
      ∧ (0x1000000000000001#64).toNat / 2 ^ 60 = 1
      ∧ (narrow base).sxlen = .x32 ∧ (0x80000001#64).toNat / 2 ^ 31 % 2 = 1 ∧ (narrow base).cfg.sv32 = false := by
  decide

/-- C is enabled and writable, and the next instruction's address is not 4-byte aligned. -/
def compressed : State :=
  { base with
    cfg := { Config.reference with misaExt := 0x0141185, misaWritable := 4 }
    ext := 0x0141185, pc := 0x80000002 }

theorem test_witness_MisaWriteSuppressed :
    compressed.cfg.wf = true ∧ compressed.priv = .machine ∧ compressed.virt = false ∧ compressed.hasC = true
      ∧ compressed.cfg.misaWritable.getLsbD Config.bitC = true ∧ compressed.pc.getLsbD 1 = true
      ∧ ∃ form ∈ csrForms compressed 0 0x301 4, form.2.1 = true
          ∧ (form.2.2 (compressed.csrStored .misa)).getLsbD Config.bitC = false :=
  ⟨by decide, by decide, by decide, by decide, by decide, by decide,
    (.csrrci 0 0x301 4, true, fun old => old &&& ~~~(4#5 : BitVec 5).setWidth 64), by simp [csrForms], rfl, by decide⟩

end Sys2Proof.Tests
end

section
/-! What an instruction below M-mode can do to the machine's own state: how it can end, what a CSR write at a level below
machine leaves alone, and the frame of the two together. -/

namespace Sys2Proof.Machine

open Sys2Proof

/-! ## Bits of a merged word and of the views of `mie` and `mip` -/

theorem merge_getLsbD (mask old new : Word) (k : Nat) :
    (merge mask old new).getLsbD k = if mask.getLsbD k then new.getLsbD k else old.getLsbD k := by
  by_cases hk : k < 64
  · simp only [merge, BitVec.getLsbD_or, BitVec.getLsbD_and, BitVec.getLsbD_not]
    cases mask.getLsbD k <;> simp [hk]
  · simp [BitVec.getLsbD_of_ge _ _ (Nat.le_of_not_lt hk)]

/-- A write leaves the bits outside its mask alone. -/
theorem merge_getLsbD_of_clear {mask : Word} {k : Nat} (old new : Word) (h : mask.getLsbD k = false) :
    (merge mask old new).getLsbD k = old.getLsbD k := by
  rw [merge_getLsbD, h, if_neg Bool.false_ne_true]

/-- The bits of a fixed word, from those at the 64 places it has. -/
theorem getLsbD_eq_of_fin {w : Word} {p : Nat → Bool} (low : ∀ k : Fin 64, w.getLsbD k = p k)
    (high : ∀ k, 64 ≤ k → p k = false) (k : Nat) : w.getLsbD k = p k := by
  by_cases hk : k < 64
  · exact low ⟨k, hk⟩
  · rw [BitVec.getLsbD_of_ge _ _ (Nat.le_of_not_lt hk), high k (Nat.le_of_not_lt hk)]

theorem vsBits_getLsbD (k : Nat) : (0x444#64).getLsbD k = decide (k ∈ [2, 6, 10]) :=
  getLsbD_eq_of_fin (p := fun k => decide (k ∈ [2, 6, 10])) (by decide) (fun k _ => by simp; omega) k

theorem vsAndGeiBits_getLsbD (k : Nat) : (0x1444#64).getLsbD k = decide (k ∈ [2, 6, 10, 12]) :=
  getLsbD_eq_of_fin (p := fun k => decide (k ∈ [2, 6, 10, 12])) (by decide) (fun k _ => by simp; omega) k

theorem platformBits_getLsbD (k : Nat) : platformBits.getLsbD k = (decide (16 ≤ k) && decide (k < 64)) :=
  getLsbD_eq_of_fin (p := fun k => decide (16 ≤ k) && decide (k < 64)) (by decide) (fun k _ => by simp; omega) k

theorem widthMask_getLsbD (xl : Xlen) (k : Nat) : (widthMask xl).getLsbD k = decide (k < xl.bits) := by
  cases xl
  · exact getLsbD_eq_of_fin (p := fun k => decide (k < 32)) (by decide) (fun k _ => by simp; omega) k
  · exact getLsbD_eq_of_fin (p := fun k => decide (k < 64)) (by decide) (fun k _ => by simp; omega) k

theorem bits_le (xl : Xlen) : xl.bits ≤ 64 := by cases xl <;> decide

/-- `sip` and `sie` are made of the bits that `sShows` names. -/
theorem State.sVisible_getLsbD (s : State) (k : Nat) : s.sVisible.getLsbD k = s.sShows k := by
  by_cases hk : k < s.sxlen.bits
  · have h64 : k < 64 := lt_of_lt_of_le hk (bits_le _)
    simp only [State.sVisible, State.sShows, State.hvipBit, BitVec.getLsbD_and, BitVec.getLsbD_not, BitVec.getLsbD_or,
      vsAndGeiBits_getLsbD, widthMask_getLsbD, hk, h64]
    cases s.hasH
    · simp [Bool.and_comm]
    · simp only [if_true, BitVec.getLsbD_and, platformBits_getLsbD, h64]
      grind
  · simp [State.sVisible, State.sShows, widthMask_getLsbD, hk]

theorem State.hBits_getLsbD (s : State) (k : Nat) :
    s.hBits.getLsbD k = (s.hasH && (decide (k ∈ [2, 6, 10]) || (k == 12 && s.cfg.geilen != 0))) := by
  unfold State.hBits
  cases s.hasH
  · simp
  · by_cases hg : s.cfg.geilen = 0
    · simp [hg, vsBits_getLsbD]
    · simp [hg, vsAndGeiBits_getLsbD]
      grind

/-- `hip` and `hie` show only the bits that `hShows` names. -/
theorem State.hShows_of_hVisible (s : State) (k : Nat) (h : s.hVisible.getLsbD k = true) : s.hShows k = true := by
  rw [State.hVisible, BitVec.getLsbD_and, widthMask_getLsbD, BitVec.getLsbD_or, Bool.and_eq_true, Bool.or_eq_true] at h
  obtain ⟨standard | platform, hk⟩ := h
  · rw [State.hBits_getLsbD] at standard
    simp only [State.hShows, hk, standard, Bool.true_and, Bool.true_or]
  · cases hH : s.hasH <;> simp [hH, State.platBits, platformBits_getLsbD] at platform
    simp [State.hShows, State.hvipBit, hH, platform, hk]

/-- `vsip` and `vsie` are made of the bits that `vsShows` names. -/
theorem State.vsVisible_getLsbD (s : State) (k : Nat) : s.vsVisible.getLsbD k = s.vsShows k := by
  simp [State.vsVisible, State.vsShows, widthMask_getLsbD, Bool.and_comm]

/-! ## The registers of the machine level -/

/-- The registers whose address asks for M-mode (R40). -/
def CsrReg.machineLevel : CsrReg → Bool
  | .mvendorid | .marchid | .mimpid | .mhartid | .mconfigptr | .mstatus | .misa | .medeleg | .mideleg | .mie | .mtvec
  | .mcounteren | .mstatush | .mscratch | .mepc | .mcause | .mtval | .mip | .mtinst | .mtval2 | .menvcfg | .menvcfgh
  | .pmpcfg _ | .pmpaddr _ | .mcycle | .minstret | .mhpmcounter _ | .mcycleh | .minstreth | .mhpmcounterh _
  | .mcountinhibit | .mhpmevent _ => true
  | _ => false

theorem csrLevel_eq (a : BitVec 12) : csrLevel a = a.toNat / 256 % 4 := by
  simp [csrLevel, Nat.shiftRight_eq_div_pow]

theorem csrOfS_machineLevel {n : Nat} {r : CsrReg} (h : csrOfS n = some r) : r.machineLevel = false := by
  unfold csrOfS at h
  split at h <;> cases h <;> rfl

theorem csrOfH_machineLevel {n : Nat} {r : CsrReg} (h : csrOfH n = some r) : r.machineLevel = false := by
  unfold csrOfH at h
  split at h <;> cases h <;> rfl

theorem csrOfU_machineLevel {n : Nat} {r : CsrReg} (h : csrOfU n = some r) : r.machineLevel = false := by
  unfold csrOfU at h
  split at h <;> cases h <;> rfl

theorem csrOfM_level {n : Nat} {r : CsrReg} (h : csrOfM n = some r) : n / 256 % 4 = 3 := by
  unfold csrOfM at h
  split at h <;> cases h <;> rfl

theorem csrOfRange_level {n : Nat} {r : CsrReg} (h : csrOfRange n = some r) (hr : r.machineLevel = true) :
    n / 256 % 4 = 3 := by
  unfold csrOfRange at h
  split_ifs at h <;> cases h <;> first | omega | cases hr

/-- An address below the machine level names no register of the machine level (R40, R43). -/
theorem csrOf_machineLevel {a : BitVec 12} {r : CsrReg} (h : csrOf a = some r) (hl : csrLevel a ≤ 2) :
    r.machineLevel = false := by
  rw [csrLevel_eq] at hl
  simp only [csrOf, Option.or_eq_some_iff] at h
  obtain hS | ⟨-, hH | ⟨-, hM | ⟨-, hU | ⟨-, hR⟩⟩⟩⟩ := h
  · exact csrOfS_machineLevel hS
  · exact csrOfH_machineLevel hH
  · have := csrOfM_level hM
    omega
  · exact csrOfU_machineLevel hU
  · by_contra hr
    have := csrOfRange_level hR (Bool.eq_true_of_not_eq_false hr)
    omega

/-- The VS counterpart of a register is no more of the machine level than the register is (R389). -/
theorem State.effectiveCsr_machineLevel (s : State) {r : CsrReg} (h : r.machineLevel = false) :
    (s.effectiveCsr r).machineLevel = false := by
  unfold State.effectiveCsr
  split
  · exact h
  · split <;> first | rfl | exact h

/-- Below M-mode the access check lets no address of the machine level through (R41, R724). -/
theorem State.csrLevel_of_csrCheck {s : State} {a : BitVec 12} {w : Bool} (hp : s.priv ≠ .machine)
    (h : s.csrCheck a w = .ok) : csrLevel a ≤ 2 := by
  by_contra hl
  have hl3 : csrLevel a = 3 := by
    have := (a.extractLsb' 8 2).isLt
    simp only [csrLevel] at hl ⊢
    omega
  have hreach : reaches s.priv (csrLevel a) = false := by
    cases hs : s.priv
    · simp [reaches, hl3]
    · simp [reaches, hl3]
    · exact absurd hs hp
  revert h
  unfold State.csrCheck
  cases s.virt
  · cases s.csrAt s.xlen a <;> simp [hreach]
  · cases hr : csrOf a with
    | none => simp
    | some r => simp [hl3]

/-! ## What a CSR write below the machine level leaves alone -/

/-- `t` has the machine state of `s`, but for the fields of `mstatus` that `sstatus` shows, the bits of `mie` that a lower
enable register shows, and a delegated SSIP. -/
structure CsrKept (s t : State) : Prop where
  regs : t.m = { s.m with ie := t.m.ie, ip := t.m.ip }
  status : t.mstatus = { s.mstatus with
    sie := t.mstatus.sie, spie := t.mstatus.spie, ube := t.mstatus.ube, spp := t.mstatus.spp, vs := t.mstatus.vs
    fs := t.mstatus.fs, sum := t.mstatus.sum, mxr := t.mstatus.mxr, uxl := t.mstatus.uxl }
  pmpcfg : t.pmpcfg = s.pmpcfg
  pmpaddr : t.pmpaddr = s.pmpaddr
  ext : t.ext = s.ext
  mxl : t.mxl = s.mxl
  ie : ∀ k, s.sShows k = false → s.hShows k = false → s.vsShows k = false → t.m.ie.getLsbD k = s.m.ie.getLsbD k
  ip : ∀ k, k ≠ 1 ∨ s.sShows 1 = false → t.m.ip.getLsbD k = s.m.ip.getLsbD k

/-- Only registers below the machine level have changed. -/
theorem CsrKept.of_eq {s t : State} (m : t.m = s.m) (status : t.mstatus = s.mstatus) (pmpcfg : t.pmpcfg = s.pmpcfg)
    (pmpaddr : t.pmpaddr = s.pmpaddr) (ext : t.ext = s.ext) (mxl : t.mxl = s.mxl) : CsrKept s t where
  regs := by rw [m]
  status := by rw [status]
  pmpcfg := pmpcfg
  pmpaddr := pmpaddr
  ext := ext
  mxl := mxl
  ie _ _ _ _ := by rw [m]
  ip _ _ := by rw [m]

/-- A write of bits of `mie` that some lower enable register shows. -/
theorem CsrKept.writeIe (s : State) (mask v : Word)
    (hidden : ∀ k, s.sShows k = false → s.hShows k = false → s.vsShows k = false → mask.getLsbD k = false) :
    CsrKept s { s with m := { s.m with ie := merge mask s.m.ie v } } where
  regs := rfl
  status := rfl
  pmpcfg := rfl
  pmpaddr := rfl
  ext := rfl
  mxl := rfl
  ie k hs hh hv := merge_getLsbD_of_clear _ _ (hidden k hs hh hv)
  ip _ _ := rfl

/-- A write of `sip`: SSIP, where it is delegated (R268). -/
theorem CsrKept.writeSip (s : State) (v : Word) :
    CsrKept s { s with m := { s.m with ip := merge (2#64 &&& s.sVisible &&& s.sBits) s.m.ip v } } where
  regs := rfl
  status := rfl
  pmpcfg := rfl
  pmpaddr := rfl
  ext := rfl
  mxl := rfl
  ie _ _ _ _ := rfl
  ip k hk := merge_getLsbD_of_clear _ _ <| by
    rw [BitVec.getLsbD_and, BitVec.getLsbD_and, State.sVisible_getLsbD]
    by_cases h1 : k = 1
    · subst h1
      simp [hk.resolve_left (· rfl)]
    · have h2 : (2#64).getLsbD k = false :=
        (getLsbD_eq_of_fin (p := fun k => k == 1) (by decide) (fun k _ => by simp; omega) k).trans (by simp [h1])
      simp [h2]

/-- A write of `sstatus` (R250). -/
theorem CsrKept.writeSstatus (s : State) (v : Word) : CsrKept s { s with mstatus := s.writeSstatus v } where
  regs := rfl
  status := by
    simp only [State.writeSstatus, State.writeSFields]
    split <;> rfl
  pmpcfg := rfl
  pmpaddr := rfl
  ext := rfl
  mxl := rfl
  ie _ _ _ _ := rfl
  ip _ _ := rfl

theorem State.settleM_self (s : State) : s.settleM s.mxlen = s := by
  unfold State.settleM
  cases s.mxlen <;> rfl

theorem State.settleS_self (s : State) : s.settleS s.sxlen = s := by
  unfold State.settleS
  cases s.sxlen <;> rfl

/-- VSXLEN governs the VS registers alone. -/
theorem State.settleVs_same (s : State) (x : Xlen) : s.settleVs x = { s with vs := (s.settleVs x).vs } := by
  unfold State.settleVs
  split <;> rfl

/-- Where MXLEN and SXLEN stay, a change of widths is one of VSXLEN. -/
theorem settle_of_xlen_eq {s t : State} (hm : t.mxlen = s.mxlen) (hs : t.sxlen = s.sxlen) :
    settle s t = t.settleVs s.vsxlen := by
  rw [settle, ← hm, State.settleM_self, ← hs, State.settleS_self]

/-- A write of `hstatus`, whose VSXL may change the width of the VS registers (R332). -/
theorem CsrKept.writeHstatus (s : State) (f : HStatus) :
    CsrKept s (settle s { s with h := { s.h with status := f } }) := by
  rw [settle_of_xlen_eq, State.settleVs_same]
  · exact .of_eq rfl rfl rfl rfl rfl rfl
  all_goals rfl

theorem CsrKept.writeSCsr {s t : State} {r : CsrReg} {v : Word} (h : s.writeSCsr r v = some t) : CsrKept s t := by
  unfold State.writeSCsr at h
  dsimp only at h
  split at h
  case h_1 => cases h; exact .writeSstatus s v
  case h_2 =>
    cases h
    exact .writeIe s _ _ fun k hs _ _ => by simp [State.sVisible_getLsbD, hs]
  case h_3 => cases h; exact .writeSip s v
  case h_9 =>
    obtain ⟨c, -, rfl⟩ := Option.map_eq_some_iff.mp h
    exact .of_eq rfl rfl rfl rfl rfl rfl
  all_goals cases h; exact .of_eq rfl rfl rfl rfl rfl rfl

theorem CsrKept.writeHCsr {s t : State} {r : CsrReg} {v : Word} (h : s.writeHCsr r v = some t) : CsrKept s t := by
  unfold State.writeHCsr at h
  dsimp only at h
  split at h
  case h_1 =>
    split at h
    · cases h
    · cases h; exact .writeHstatus s _
  case h_4 =>
    cases h
    refine .writeIe s _ _ fun k _ hh _ => ?_
    have hv : s.hVisible.getLsbD k = false :=
      Bool.eq_false_of_not_eq_true fun hc => Bool.false_ne_true (hh.symm.trans (s.hShows_of_hVisible k hc))
    rw [BitVec.getLsbD_and, hv, Bool.and_false]
  all_goals cases h; exact .of_eq rfl rfl rfl rfl rfl rfl

theorem CsrKept.writeVsCsr {s t : State} {r : CsrReg} {v : Word} (h : s.writeVsCsr r v = some t) : CsrKept s t := by
  unfold State.writeVsCsr at h
  dsimp only at h
  split at h
  case h_2 =>
    cases h
    exact .writeIe s _ _ fun k _ _ hv => by rw [BitVec.getLsbD_and, State.vsVisible_getLsbD, hv, Bool.and_false]
  case h_7 =>
    obtain ⟨c, -, rfl⟩ := Option.map_eq_some_iff.mp h
    exact .of_eq rfl rfl rfl rfl rfl rfl
  all_goals cases h; exact .of_eq rfl rfl rfl rfl rfl rfl

/-- A register that is not of the machine level is not written there. -/
theorem State.writeMCsr_of_not_machineLevel (s : State) {r : CsrReg} (v : Word) (h : r.machineLevel = false) :
    s.writeMCsr r v = some s := by
  cases r <;> first | rfl | cases h

theorem CsrKept.writeMCsr {s t : State} {r : CsrReg} {v : Word} (hr : r.machineLevel = false)
    (h : s.writeMCsr r v = some t) : CsrKept s t := by
  rw [s.writeMCsr_of_not_machineLevel v hr] at h
  cases h
  exact .of_eq rfl rfl rfl rfl rfl rfl

/-- A write below the machine level keeps the machine state, but for what lower registers show of it. -/
theorem CsrKept.csrWrite {s t : State} {r : CsrReg} {v : Word} (hr : r.machineLevel = false)
    (h : s.csrWrite r v = some t) : CsrKept s t := by
  unfold State.csrWrite at h
  split at h
  · cases hr
  · unfold State.writeOther at h
    split at h
    all_goals first
      | exact .writeSCsr h
      | exact .writeHCsr h
      | exact .writeVsCsr h
      | exact .writeMCsr hr h

/-! ## How an instruction below M-mode ends -/

/-- `t` is `s` but for general registers, `pc`, memory with its devices, and what the hart remembers of translations, PMP
checks, its stall and its draws: every mode and CSR is as before. -/
def ModeAndCsrsKept (s t : State) : Prop :=
  t = { s with
    x := t.x, pc := t.pc, mtime := t.mtime, mtimecmp := t.mtimecmp, msip := t.msip, stalled := t.stalled, tc := t.tc
    pmpStale := t.pmpStale, pmpStaleG := t.pmpStaleG, mem := t.mem, draws := t.draws }

theorem ModeAndCsrsKept.refl (s : State) : ModeAndCsrsKept s s := rfl

theorem ModeAndCsrsKept.trans {s t u : State} (h : ModeAndCsrsKept s t) (k : ModeAndCsrsKept t u) :
    ModeAndCsrsKept s u := by
  unfold ModeAndCsrsKept at *
  rw [k]
  rw [h]

/-- What an access to memory touches is no CSR. -/
theorem ModeAndCsrsKept.of_touched {s t : State} (h : Touched s t) : ModeAndCsrsKept s t := by
  unfold ModeAndCsrsKept
  rw [h.same]

theorem ModeAndCsrsKept.writeX (s : State) (rd : RegIdx) (v : Word) : ModeAndCsrsKept s (s.writeX rd v) := by
  unfold ModeAndCsrsKept State.writeX
  split <;> rfl

theorem ModeAndCsrsKept.fenceGuest (s : State) (rs1 rs2 : RegIdx) : ModeAndCsrsKept s (s.fenceGuest rs1 rs2) := by
  unfold State.fenceGuest
  dsimp only
  split <;> rfl

theorem ModeAndCsrsKept.sfence (s : State) (rs1 rs2 : RegIdx) : ModeAndCsrsKept s (s.sfence rs1 rs2) := by
  unfold State.sfence
  split
  · exact .fenceGuest s rs1 rs2
  · dsimp only
    split <;> rfl

/-- The three ways an instruction executed below M-mode ends, SRET apart: in a trap, by going on elsewhere, or by a write
of a CSR below the machine level after it has otherwise completed. -/
inductive EndsBelow (s : State) : State → Prop where
  | trap {u : State} (w : BitVec 32) (e : Excn) (same : ModeAndCsrsKept s u) : EndsBelow s (u.takeException w e)
  | retire {u : State} (target : Word) (same : ModeAndCsrsKept s u) : EndsBelow s (u.retireTo target)
  | csr {u t : State} {r : CsrReg} {v : Word} (same : ModeAndCsrsKept s u) (level : r.machineLevel = false)
      (write : u.retire.csrWrite r v = some t) : EndsBelow s t

/-- Every next state that the outcome `o` can be is such an end. -/
def State.Ends (s : State) (o : Out) : Prop := ∀ t, o = .next t → EndsBelow s t

theorem State.Ends.next {s t : State} (h : EndsBelow s t) : s.Ends (.next t) := by
  intro u hu
  cases hu
  exact h

theorem State.Ends.trap {s u : State} (w : BitVec 32) (e : Excn) (h : ModeAndCsrsKept s u) :
    s.Ends (.next (u.takeException w e)) := .next (.trap w e h)

theorem State.Ends.retire {s u : State} (h : ModeAndCsrsKept s u) : s.Ends (.next u.retire) := .next (.retire _ h)

/-- A guarded meaning that answers `t` was permitted and ran, or took an exception. -/
theorem State.guarded_next {s t : State} {w : BitVec 32} {p : Permit} {k : State → Out}
    (h : s.guarded w p k = .next t) : (p = .ok ∧ k s = .next t) ∨ ∃ e, t = s.takeException w e := by
  cases p with
  | ok => exact .inl ⟨rfl, h⟩
  | illegal => cases h; exact .inr ⟨_, rfl⟩
  | virt => cases h; exact .inr ⟨_, rfl⟩

/-- A guarded meaning ends well if it does where it is permitted. -/
theorem State.Ends.guarded {s u : State} (w : BitVec 32) {p : Permit} {k : State → Out} (h : ModeAndCsrsKept s u)
    (hk : p = .ok → s.Ends (k u)) : s.Ends (u.guarded w p k) := by
  intro t ht
  obtain ⟨hp, ht⟩ | ⟨e, rfl⟩ := State.guarded_next ht
  · exact hk hp t ht
  · exact .trap w e h

theorem State.Ends.compute (s : State) (rd : RegIdx) (v : Word) : s.Ends (s.compute rd v) :=
  .retire (.writeX s rd v)

theorem State.Ends.shiftImm (s : State) (w : BitVec 32) (rd : RegIdx) (sh : BitVec 6) (v : Word) :
    s.Ends (s.shiftImm w rd sh v) := .guarded w (.refl s) fun _ => .compute s rd v

theorem State.Ends.jump (s : State) (w : BitVec 32) (rd : RegIdx) (target : Word) : s.Ends (s.jump w rd target) := by
  obtain ⟨-, h⟩ | ⟨-, h⟩ := s.jump_cases w rd target
  · rw [h]; exact .next (.retire _ (.writeX s _ _))
  · rw [h]; exact .trap w _ (.refl s)

theorem State.Ends.branch (s : State) (w : BitVec 32) (taken : Bool) (off : BitVec 13) :
    s.Ends (s.branch w taken off) := by
  cases taken
  · exact .retire (.refl s)
  · exact .jump s w _ _

theorem State.Ends.loadTo (s : State) (w : BitVec 32) (a : Acc) (rd : RegIdx) (va : Word) (ext : Word → Word) :
    s.Ends (s.loadTo w a rd va ext) := by
  have hw := ModeAndCsrsKept.of_touched (Walked.load s a va).toTouched
  unfold State.loadTo
  cases hl : s.load a va with
  | ok v t => rw [hl] at hw; exact .retire (hw.trans (.writeX t _ _))
  | exn e t => rw [hl] at hw; exact .trap w e hw

theorem State.Ends.storeFrom (s : State) (w : BitVec 32) (a : Acc) (va v : Word) : s.Ends (s.storeFrom w a va v) := by
  have hw := ModeAndCsrsKept.of_touched (Touched.store s a va v)
  unfold State.storeFrom
  cases hl : s.store a va v with
  | ok v t => rw [hl] at hw; exact .retire hw
  | exn e t => rw [hl] at hw; exact .trap w e hw

theorem State.retireTo_eq (s : State) (target : Word) :
    s.retireTo target = { s with pc := sxTo s.xlen target, m := { s.m with instret := s.nextInstret } } := by
  rw [State.retireTo_same, State.retireTo_instret, State.nextInstret]

theorem State.Ends.waitForInterrupt (s : State) : s.Ends (.next s.waitForInterrupt) := by
  have h : s.waitForInterrupt = State.retire { s with
      stalled := !s.wakeRequired && Config.freeBit s.draws, draws := s.draws + 1 } := by
    rw [State.waitForInterrupt, State.retire, State.retire, State.retireTo_eq, State.retireTo_eq]
    rfl
  rw [h]
  exact .retire rfl

theorem State.Ends.wfi (s : State) : s.Ends (execWfi s) := by
  unfold execWfi
  split
  · exact .waitForInterrupt s
  · unfold State.wfiWithin
    split
    · exact .guarded _ (.refl s) fun _ => .retire (.refl s)
    · exact .guarded (u := s.drew) _ rfl fun _ => .retire rfl
  · exact .guarded _ (.refl s) fun _ => .waitForInterrupt s

/-- A write of a register below the machine level is counted as retired before it takes effect (R722). -/
theorem State.retireBefore_of_not_machineLevel (s : State) (w : Bool) {r : CsrReg} (h : r.machineLevel = false) :
    s.retireBefore w r = s.retire := by
  have h1 : (r == .minstret || r == .minstreth) = false := by
    cases r <;> first | rfl | cases h
  rw [State.retireBefore, h1, Bool.and_false, if_neg Bool.false_ne_true]

theorem State.Ends.csrOp {s : State} (hp : s.priv ≠ .machine) (w : BitVec 32) (rd : RegIdx) (a : BitVec 12)
    (writes : Bool) (f : Word → Word) : s.Ends (s.csrOp w rd a writes f) := by
  obtain h | h | ⟨hc, named, hn, ⟨-, h⟩ | ⟨-, t, h, hw⟩⟩ := s.csrOp_cases w rd a writes f
  · rw [h]; exact .trap w _ (.refl s)
  · rw [h]; exact .trap w _ (.refl s)
  · rw [h]; exact .retire (.writeX s _ _)
  · have hr := s.effectiveCsr_machineLevel (csrOf_machineLevel hn (State.csrLevel_of_csrCheck hp hc))
    rw [State.retireBefore_of_not_machineLevel _ _ hr] at hw
    rw [h]
    exact .next (.csr (.writeX s _ _) hr hw)

/-- Every instruction but SRET, executed below M-mode, ends in one of the three ways. -/
theorem exec_endsBelow (i : Instr) {s : State} (hp : s.priv ≠ .machine) (hi : i ≠ .sret) : s.Ends (exec i s) := by
  have here := ModeAndCsrsKept.refl s
  unfold exec
  cases i <;> dsimp only
  case sret => exact absurd rfl hi
  case mret => exact .guarded _ here fun h => by simp [hp] at h
  case ecall | ebreak => exact .trap _ _ here
  case wfi => exact .wfi s
  case fence | fenceI => exact .retire here
  case sfenceVma rs1 rs2 | sinvalVma rs1 rs2 => exact .guarded _ here fun _ => .retire (.sfence s rs1 rs2)
  case sfenceWInval | sfenceInvalIr => exact .guarded _ here fun _ => .retire here
  case hfenceVvma rs1 rs2 | hinvalVvma rs1 rs2 => exact .guarded _ here fun _ => .retire (.fenceGuest s rs1 rs2)
  case hfenceGvma rs1 rs2 | hinvalGvma rs1 rs2 => exact .guarded _ here fun _ => .retire rfl
  case hlvB | hlvBu | hlvH | hlvHu | hlvW | hlvWu | hlvD | hlvxHu | hlvxWu =>
    exact .guarded _ here fun _ => .loadTo s _ _ _ _ _
  case hsvB | hsvH | hsvW | hsvD => exact .guarded _ here fun _ => .storeFrom s _ _ _ _
  case csrrw | csrrs | csrrc | csrrwi | csrrsi | csrrci => exact .csrOp hp _ _ _ _ _
  case lui | auipc | addi | slti | sltiu | xori | ori | andi => exact .compute s _ _
  case add | sub | sll | slt | sltu | xor | srl | sra | or | and => exact .compute s _ _
  case jal | jalr => exact .jump s _ _ _
  case beq | bne | blt | bge | bltu | bgeu => exact .branch s _ _ _
  case lb | lh | lw | lbu | lhu => exact .loadTo s _ _ _ _ _
  case ld | lwu => exact .guarded _ here fun _ => .loadTo s _ _ _ _ _
  case sb | sh | sw => exact .storeFrom s _ _ _ _
  case sd => exact .guarded _ here fun _ => .storeFrom s _ _ _ _
  case slli | srli | srai => exact .shiftImm s _ _ _ _
  case addiw | addw | subw => exact .guarded _ here fun _ => .compute s _ _

/-! ## The frame of an instruction below M-mode -/

/-- The trap registers of M-mode and the trap stack of `mstatus` (R880) are as in `s`. -/
def TrapStackKept (s t : State) : Prop :=
  t.m.epc = s.m.epc ∧ t.m.cause = s.m.cause ∧ t.m.tval = s.m.tval ∧ t.m.tval2 = s.m.tval2 ∧ t.m.tinst = s.m.tinst
    ∧ t.mstatus.mie = s.mstatus.mie ∧ t.mstatus.mpie = s.mstatus.mpie ∧ t.mstatus.mpp = s.mstatus.mpp
    ∧ t.mstatus.mpv = s.mstatus.mpv ∧ t.mstatus.gva = s.mstatus.gva

/-- `t` is where an instruction executed below M-mode in `s` may end: the machine state is kept but for what
`CsrKept` lets change, for MPRV, which is now `mprv`, for one more retired instruction, and, in M-mode, for what a trap
entry writes. -/
structure MachineKept (mprv : Bool) (s t : State) : Prop where
  regs : t.m = { s.m with
    ie := t.m.ie, ip := t.m.ip, instret := t.m.instret, epc := t.m.epc, cause := t.m.cause, tval := t.m.tval
    tval2 := t.m.tval2, tinst := t.m.tinst }
  status : t.mstatus = { s.mstatus with
    sie := t.mstatus.sie, spie := t.mstatus.spie, ube := t.mstatus.ube, spp := t.mstatus.spp, vs := t.mstatus.vs
    fs := t.mstatus.fs, sum := t.mstatus.sum, mxr := t.mstatus.mxr, uxl := t.mstatus.uxl, mie := t.mstatus.mie
    mpie := t.mstatus.mpie, mpp := t.mstatus.mpp, mpv := t.mstatus.mpv, gva := t.mstatus.gva, mprv := mprv }
  pmpcfg : t.pmpcfg = s.pmpcfg
  pmpaddr : t.pmpaddr = s.pmpaddr
  ext : t.ext = s.ext
  mxl : t.mxl = s.mxl
  instret : t.m.instret = s.m.instret ∨ t.m.instret = s.nextInstret
  ie : ∀ k, s.sShows k = false → s.hShows k = false → s.vsShows k = false → t.m.ie.getLsbD k = s.m.ie.getLsbD k
  ip : ∀ k, k ≠ 1 ∨ s.sShows 1 = false → t.m.ip.getLsbD k = s.m.ip.getLsbD k
  stack : t.priv ≠ .machine → TrapStackKept s t

/-- What happens from `u` on happens from `s` on, where `u` has the modes and CSRs of `s`. -/
theorem MachineKept.of_same {s u t : State} {b : Bool} (h : ModeAndCsrsKept s u) (k : MachineKept b u t) :
    MachineKept b s t := by
  unfold ModeAndCsrsKept at h
  rw [h] at k
  exact ⟨k.regs, k.status, k.pmpcfg, k.pmpaddr, k.ext, k.mxl, k.instret, k.ie, k.ip, k.stack⟩

/-- Trap entry into M-mode writes the trap registers and the trap stack (R880). -/
theorem MachineKept.enterM (s : State) (i : TrapInfo) : MachineKept s.mstatus.mprv s (s.enterM i) where
  regs := rfl
  status := rfl
  pmpcfg := rfl
  pmpaddr := rfl
  ext := rfl
  mxl := rfl
  instret := .inl rfl
  ie _ _ _ _ := rfl
  ip _ _ := rfl
  stack h := absurd rfl h

/-- The machine state is kept but for the fields of `mstatus` that a lower mode writes. -/
theorem MachineKept.of_status {s t : State} {b : Bool} (m : t.m = { s.m with instret := t.m.instret })
    (status : t.mstatus = { s.mstatus with
      sie := t.mstatus.sie, spie := t.mstatus.spie, spp := t.mstatus.spp, mprv := b })
    (pmpcfg : t.pmpcfg = s.pmpcfg) (pmpaddr : t.pmpaddr = s.pmpaddr) (ext : t.ext = s.ext) (mxl : t.mxl = s.mxl)
    (instret : t.m.instret = s.m.instret ∨ t.m.instret = s.nextInstret) : MachineKept b s t where
  regs := by rw [m]
  status := by rw [status]
  pmpcfg := pmpcfg
  pmpaddr := pmpaddr
  ext := ext
  mxl := mxl
  instret := instret
  ie _ _ _ _ := by rw [m]
  ip _ _ := by rw [m]
  stack _ := by
    unfold TrapStackKept
    rw [m, status]
    exact ⟨rfl, rfl, rfl, rfl, rfl, rfl, rfl, rfl, rfl, rfl⟩

theorem MachineKept.takeException (s : State) (w : BitVec 32) (e : Excn) :
    MachineKept s.mstatus.mprv s (s.takeException w e) := by
  unfold State.takeException
  obtain ⟨-, h⟩ | ⟨-, h⟩ | ⟨-, h⟩ := s.enter_cases (s.exceptionTarget e.code) (s.trapInfo w e)
  · rw [h]; exact .enterM s _
  · rw [h]; exact .of_status rfl rfl rfl rfl rfl rfl (.inl rfl)
  · rw [h]; exact .of_status rfl rfl rfl rfl rfl rfl (.inl rfl)

theorem MachineKept.retireTo (s : State) (target : Word) : MachineKept s.mstatus.mprv s (s.retireTo target) := by
  rw [State.retireTo_eq]
  exact .of_status rfl rfl rfl rfl rfl rfl (.inr rfl)

/-- A CSR write below the machine level by an instruction that has otherwise completed. -/
theorem MachineKept.csrWrite {s t : State} (h : CsrKept s.retire t) : MachineKept s.mstatus.mprv s t := by
  rw [State.retire, State.retireTo_eq] at h
  exact {
    regs := by rw [h.regs]
    status := by rw [h.status]
    pmpcfg := h.pmpcfg
    pmpaddr := h.pmpaddr
    ext := h.ext
    mxl := h.mxl
    instret := .inr (by rw [h.regs])
    ie := h.ie
    ip := h.ip
    stack := fun _ => by
      unfold TrapStackKept
      rw [h.regs, h.status]
      exact ⟨rfl, rfl, rfl, rfl, rfl, rfl, rfl, rfl, rfl, rfl⟩ }

theorem MachineKept.of_endsBelow {s t : State} (h : EndsBelow s t) : MachineKept s.mstatus.mprv s t := by
  have mprv {u : State} (hu : ModeAndCsrsKept s u) : u.mstatus.mprv = s.mstatus.mprv := by rw [hu]
  cases h with
  | trap w e same => exact .of_same same (mprv same ▸ .takeException _ w e)
  | retire target same => exact .of_same same (mprv same ▸ .retireTo _ target)
  | csr same level write => exact .of_same same (mprv same ▸ .csrWrite (.csrWrite level write))

/-- SRET (R780): it traps, or returns and then clears MPRV where V = 0. -/
theorem MachineKept.sret {s t : State} (h : exec .sret s = .next t) :
    ∃ b, MachineKept b s t ∧ (b = true → s.mstatus.mprv = true) := by
  have h : execSret s = .next t := h
  unfold execSret at h
  obtain ⟨-, h⟩ | ⟨e, rfl⟩ := State.guarded_next h
  · split at h <;> cases h <;> rw [State.completeReturn, State.retireTo_eq]
    · exact ⟨s.mstatus.mprv, .of_status rfl rfl rfl rfl rfl rfl (.inr rfl), id⟩
    · exact ⟨false, .of_status rfl rfl rfl rfl rfl rfl (.inr rfl), fun h => by cases h⟩
  · exact ⟨s.mstatus.mprv, .takeException s _ e, id⟩

/-- The frame of every instruction executed below M-mode; SRET alone may clear MPRV. -/
theorem exec_machineKept {i : Instr} {s t : State} (hp : s.priv ≠ .machine) (h : exec i s = .next t) :
    ∃ b, MachineKept b s t ∧ (i ≠ .sret → b = s.mstatus.mprv) ∧ (b = true → s.mstatus.mprv = true) := by
  by_cases hi : i = .sret
  · subst hi
    obtain ⟨b, hk, hb⟩ := MachineKept.sret h
    exact ⟨b, hk, fun hn => absurd rfl hn, hb⟩
  · exact ⟨s.mstatus.mprv, .of_endsBelow (exec_endsBelow i hp hi t h), fun _ => rfl, id⟩

/-- Settles O12: every ending of an instruction below M-mode, a trap, a retirement, a CSR write below the machine level or
an SRET, keeps the machine state. -/
theorem lowerModesKeepMachineState : Obligations.LowerModesKeepMachineState := by
  unfold Obligations.LowerModesKeepMachineState
  intro i s t hp h
  obtain ⟨b, hk, hsame, hclear⟩ := exec_machineKept hp h
  rw [hk.regs, hk.status]
  exact ⟨⟨rfl, rfl, rfl, rfl, rfl, rfl, rfl, rfl, rfl, rfl, rfl, hk.instret, hk.pmpcfg, hk.pmpaddr, hk.ext, hk.mxl,
    rfl, rfl, rfl, rfl, rfl, rfl, hk.ie, hk.ip, hsame, hclear⟩, hk.stack⟩

end Sys2Proof.Machine
end

section
/-! The CSR instructions: which accesses the check permits with V = 0, the state in which a form writes, what each of the
six forms then answers, and which writes a register refuses. -/

namespace Sys2Proof.Machine

open Sys2Proof

/-! ## Bits of words at a width -/

theorem sxTo_getLsbD_of_lt (x : Xlen) (w : Word) {i : Nat} (hi : i < 32) : (sxTo x w).getLsbD i = w.getLsbD i := by
  cases x
  · have h64 : i < 64 := by omega
    simp only [sxTo, BitVec.getLsbD_signExtend, BitVec.getLsbD_setWidth]
    simp [hi, h64]
  · rfl

theorem zxTo_getLsbD_of_lt {x : Xlen} (w : Word) {i : Nat} (hi : i < x.bits) : (zxTo x w).getLsbD i = w.getLsbD i := by
  simp [zxTo_getLsbD, hi]

theorem thirtyTwo_le_bits (x : Xlen) : 32 ≤ x.bits := by cases x <;> decide

/-- The low XLEN bits of a register do not depend on how it is extended. -/
theorem zxTo_sxTo (x : Xlen) (w : Word) : zxTo x (sxTo x w) = zxTo x w := by
  cases x
  · refine BitVec.eq_of_getLsbD_eq fun i _ => ?_
    rw [zxTo_getLsbD, zxTo_getLsbD]
    by_cases h32 : i < 32
    · rw [sxTo_getLsbD_of_lt _ _ h32]
    · simp [Xlen.bits, h32]
  · rfl

/-! ## The access check with V = 0 -/

/-- With V = 0 the address `a` names the writable register `r`, which exists and which the mode may access (R41, R727). -/
structure State.Accessible (s : State) (a : BitVec 12) (r : CsrReg) : Prop where
  virt : s.virt = false
  names : csrOf a = some r
  present : s.csrExists s.xlen r = true
  reach : reaches s.priv (csrLevel a) = true
  writable : csrReadOnly a = false
  extra : s.extraCheck r = .ok

theorem State.Accessible.csrCheck {s : State} {a : BitVec 12} {r : CsrReg} (h : s.Accessible a r) (w : Bool) :
    s.csrCheck a w = .ok := by
  simp [State.csrCheck, State.csrAt, h.virt, h.names, h.present, h.reach, h.writable, h.extra]

theorem State.effectiveCsr_of_virt_eq_false {s : State} (h : s.virt = false) (r : CsrReg) : s.effectiveCsr r = r := by
  simp [State.effectiveCsr, h]

/-- M-mode and S-mode reach the supervisor and the hypervisor level (R40, R724). -/
theorem reaches_of_ne_user {p : Priv} {l : Nat} (hp : p ≠ .user) (hl : l ≤ 2) : reaches p l = true := by
  cases p
  · exact absurd rfl hp
  · simp [reaches, hl]
  · rfl

theorem State.Accessible.of_ne_user {s : State} {a : BitVec 12} {r : CsrReg} (hp : s.priv ≠ .user) (hv : s.virt = false)
    (names : csrOf a = some r) (level : csrLevel a ≤ 2) (present : s.csrExists s.xlen r = true)
    (writable : csrReadOnly a = false) (extra : s.extraCheck r = .ok) : s.Accessible a r :=
  ⟨hv, names, present, reaches_of_ne_user hp level, writable, extra⟩

theorem State.Accessible.of_machine {s : State} {a : BitVec 12} {r : CsrReg} (hp : s.priv = .machine)
    (hv : s.virt = false) (names : csrOf a = some r) (present : s.csrExists s.xlen r = true)
    (writable : csrReadOnly a = false) (extra : s.extraCheck r = .ok) : s.Accessible a r :=
  ⟨hv, names, present, by rw [hp]; rfl, writable, extra⟩

/-! ## The state in which a CSR instruction writes -/

/-- `rd` has taken `v`, `pc` has gone on, and `minstret` is `n`. -/
def State.advanced (s : State) (rd : RegIdx) (v n : Word) : State :=
  { s with x := (s.writeX rd v).x, pc := sxTo s.xlen (s.pc + 4), m := { s.m with instret := n } }

/-- `minstret` once an instruction that may write `r` has otherwise completed (R160, R722). -/
def State.instretBefore (s : State) (writes : Bool) (r : CsrReg) : Word :=
  if writes && (r == .minstret || r == .minstreth) then s.m.instret else s.nextInstret

theorem State.retireBefore_writeX (s : State) (rd : RegIdx) (v : Word) (writes : Bool) (r : CsrReg) :
    (s.writeX rd v).retireBefore writes r = s.advanced rd v (s.instretBefore writes r) := by
  have hx : s.writeX rd v = { s with x := (s.writeX rd v).x } := s.writeX_same rd v
  have hl := s.xlen_writeX rd v
  unfold State.retireBefore State.instretBefore
  split
  · rw [State.setPc, hl, State.writeX_pc, hx]
    rfl
  · rw [State.retire, State.retireTo_eq, hl, State.writeX_pc, hx]
    rfl

theorem State.wrote_advanced (s : State) (rd : RegIdx) (v n : Word) : s.Wrote (s.advanced rd v n) rd v := by
  intro k
  rw [State.readX_congr (s.writeX rd v) (s.advanced rd v n) k rfl, State.readX_writeX]
  by_cases h0 : k = 0
  · subst h0
    rw [if_neg fun h => h.2 rfl, if_pos rfl, State.readX_zero]
  · simp only [ne_eq, h0, not_false_eq_true, and_true, if_false]

theorem State.done_advanced (s : State) (rd : RegIdx) (v : Word) :
    s.Done (s.advanced rd v s.nextInstret) (s.pc + 4) := rfl

theorem State.instretBefore_of_ne {s : State} {writes : Bool} {r : CsrReg} (h1 : r ≠ .minstret)
    (h2 : r ≠ .minstreth) : s.instretBefore writes r = s.nextInstret := by
  simp [State.instretBefore, h1, h2]

theorem State.instretBefore_of_counter {s : State} {r : CsrReg} (h : r = .minstret ∨ r = .minstreth) :
    s.instretBefore true r = s.m.instret := by
  obtain rfl | rfl := h <;> rfl

/-! ## The six forms -/

theorem State.csrSource_eq (s : State) (rs1 : RegIdx) : s.csrSource rs1 = zxTo s.xlen (s.readX rs1) :=
  zxTo_sxTo s.xlen (s.readX rs1)

section
variable {s : State} {rd rs1 : RegIdx} {a : BitVec 12} {form : Instr × Bool × (Word → Word)}

/-- Each form is the one CSR operation, with what it writes and computes (R720). -/
theorem exec_csrForm (hf : form ∈ csrForms s rd a rs1) :
    exec form.1 s = s.csrOp (encode form.1) rd a form.2.1 form.2.2 := by
  simp only [csrForms, ← State.csrSource_eq, List.mem_cons, List.not_mem_nil, or_false] at hf
  obtain rfl | rfl | rfl | rfl | rfl | rfl := hf <;> rfl

/-- Each form computes bit `i` of the new value from bit `i` of the old one. -/
theorem csrForm_bitwise (hf : form ∈ csrForms s rd a rs1) {u v : Word} {i : Nat} (h : u.getLsbD i = v.getLsbD i) :
    (form.2.2 u).getLsbD i = (form.2.2 v).getLsbD i := by
  simp only [csrForms, List.mem_cons, List.not_mem_nil, or_false] at hf
  obtain rfl | rfl | rfl | rfl | rfl | rfl := hf <;> simp [h]

/-- A permitted form that does not write. -/
theorem exec_csrForm_reads (hf : form ∈ csrForms s rd a rs1) {named : CsrReg} (hn : csrOf a = some named)
    (hc : s.csrCheck a form.2.1 = .ok) (hw : form.2.1 = false) :
    exec form.1 s = .next (s.advanced rd (s.csrRead (s.effectiveCsr named)) s.nextInstret) := by
  have hd := s.retireBefore_writeX rd (s.csrRead (s.effectiveCsr named)) false (s.effectiveCsr named)
  rw [exec_csrForm hf, State.csrOp, hc, State.guarded_ok]
  simp only [hn, hw, hd]
  rfl

/-- A permitted form that writes, where the register takes the value. -/
theorem exec_csrForm_writes (hf : form ∈ csrForms s rd a rs1) {named r : CsrReg} (hn : csrOf a = some named)
    (hr : s.effectiveCsr named = r) (hc : s.csrCheck a form.2.1 = .ok) (hw : form.2.1 = true) {t : State}
    (ht : (s.advanced rd (s.csrRead r) (s.instretBefore true r)).csrWrite r
      (zxTo s.xlen (form.2.2 (s.csrStored r))) = some t) :
    exec form.1 s = .next t := by
  rw [exec_csrForm hf, State.csrOp, hc, State.guarded_ok]
  simp only [hn, hr, hw, State.retireBefore_writeX, ht, if_true]

/-- A permitted form that writes, where the register refuses the value. -/
theorem exec_csrForm_refused (hf : form ∈ csrForms s rd a rs1) {named r : CsrReg} (hn : csrOf a = some named)
    (hr : s.effectiveCsr named = r) (hc : s.csrCheck a form.2.1 = .ok) (hw : form.2.1 = true)
    (ht : (s.advanced rd (s.csrRead r) (s.instretBefore true r)).csrWrite r
      (zxTo s.xlen (form.2.2 (s.csrStored r))) = none) :
    exec form.1 s = .next (s.takeIllegal (encode form.1)) := by
  rw [exec_csrForm hf, State.csrOp, hc, State.guarded_ok]
  simp only [hn, hr, hw, State.retireBefore_writeX, ht, if_true]

/-- The reading forms on an accessible register. -/
theorem State.Accessible.exec_reads {r : CsrReg} (h : s.Accessible a r) (hf : form ∈ csrForms s rd a rs1)
    (hw : form.2.1 = false) : exec form.1 s = .next (s.advanced rd (s.csrRead r) s.nextInstret) := by
  rw [exec_csrForm_reads hf h.names (h.csrCheck _) hw, State.effectiveCsr_of_virt_eq_false h.virt]

/-- The writing forms on an accessible register that is no counter of instructions. -/
theorem State.Accessible.exec_writes {r : CsrReg} (h : s.Accessible a r) (hf : form ∈ csrForms s rd a rs1)
    (hw : form.2.1 = true) (h1 : r ≠ .minstret) (h2 : r ≠ .minstreth) {t : State}
    (ht : (s.advanced rd (s.csrRead r) s.nextInstret).csrWrite r (zxTo s.xlen (form.2.2 (s.csrStored r))) = some t) :
    exec form.1 s = .next t := by
  refine exec_csrForm_writes hf h.names (State.effectiveCsr_of_virt_eq_false h.virt r) (h.csrCheck _) hw ?_
  rw [State.instretBefore_of_ne h1 h2]
  exact ht

end

/-! ## What a CSR write refuses -/

theorem bitsAt_zero (w : Word) (n : Nat) : bitsAt w 0 n = w.toNat % 2 ^ n := by simp [bitsAt]

theorem State.causeSupported_iff (s : State) (bits : Nat) (m : Bool) (xl : Xlen) (v : Word) :
    s.causeSupported (.trapUnsupported bits) m xl v = true ↔
      ¬ s.RefusesCode (.trapUnsupported bits) xl.bits
        (if m then [s.cfg.nmiCause.toNat, s.cfg.resetCause.toNat % 2 ^ (xl.bits - 1)] else []) v := by
  have hb : (CausePolicy.trapUnsupported bits).bits = bits := rfl
  simp only [State.causeSupported, State.RefusesCode, bitsAt_zero, hb, CausePolicy.trapUnsupported.injEq,
    exists_eq_left']
  cases m <;> grind

/-- A cause register refuses the codes that it traps on (R47, R173, R283). -/
theorem State.legalCause_eq_none_iff (s : State) (p : CausePolicy) (m : Bool) (xl : Xlen) (v : Word) :
    s.legalCause p m xl v = none ↔
      s.RefusesCode p xl.bits
        (if m then [s.cfg.nmiCause.toNat, s.cfg.resetCause.toNat % 2 ^ (xl.bits - 1)] else []) v := by
  cases p with
  | store bits => simp [State.legalCause, State.RefusesCode]
  | trapUnsupported bits =>
    rw [← not_iff_not, ← State.causeSupported_iff]
    simp [State.legalCause]

/-- `hstatus` refuses a VGEIN above GEILEN (R336). -/
theorem State.vgeinRefused_iff (s : State) (v : Word) :
    s.vgeinRefused v = true ↔ s.cfg.vgeinTraps = true ∧ (s.cfg.geilen = 0 → s.cfg.vgeinReadOnlyZero = false)
      ∧ s.cfg.geilen < v.toNat / 2 ^ 12 % 2 ^ 6 := by
  simp only [State.vgeinRefused, State.vgeinFixed, BitVec.extractLsb'_toNat, Nat.shiftRight_eq_div_pow]
  grind

/-- Only a WLRL field refuses a write: a cause register, or `hstatus` (R47, R729). -/
theorem State.csrWrite_eq_none_iff (s : State) (r : CsrReg) (v : Word) :
    s.csrWrite r v = none ↔ s.RefusesWlrl r v := by
  cases r
  case mcause => exact Option.map_eq_none_iff.trans (s.legalCause_eq_none_iff _ true _ v)
  case scause | vscause => exact Option.map_eq_none_iff.trans (s.legalCause_eq_none_iff _ false _ v)
  case hstatus =>
    refine Iff.trans ?_ (s.vgeinRefused_iff v)
    simp [State.csrWrite, State.writeOther, State.writeHCsr]
  all_goals exact iff_of_false (fun h => by cases h) id

end Sys2Proof.Machine
end

section
/-! What a CSR write leaves of the general registers and of the reservation, the completion of the CSR instructions, and
the write of `misa` that is suppressed. -/

namespace Sys2Proof.Machine

open Sys2Proof

/-! ## Writes of every register but `misa` -/

/-- The general registers and the reservation are as in `s`. -/
def RegFileKept (s t : State) : Prop := t.x = s.x ∧ t.reservation = s.reservation

theorem RegFileKept.x_eq {s t : State} (h : RegFileKept s t) : t.x = s.x := h.1

theorem RegFileKept.reservation_eq {s t : State} (h : RegFileKept s t) : t.reservation = s.reservation := h.2

theorem RegFileKept.refl (s : State) : RegFileKept s s := ⟨rfl, rfl⟩

theorem RegFileKept.trans {s t u : State} (h : RegFileKept s t) (k : RegFileKept t u) : RegFileKept s u :=
  ⟨k.x_eq.trans h.x_eq, k.reservation_eq.trans h.reservation_eq⟩

theorem RegFileKept.staleAfter {s t : State} (h : RegFileKept s t) (b : State) : RegFileKept s (t.staleAfter b) :=
  h.trans ⟨t.staleAfter_x b, t.staleAfter_reservation b⟩

theorem RegFileKept.freeHideleg {s t : State} (h : RegFileKept s t) (b : State) : RegFileKept s (t.freeHideleg b) :=
  h.trans ⟨t.freeHideleg_x b, t.freeHideleg_reservation b⟩

theorem RegFileKept.settle (b s : State) : RegFileKept s (settle b s) := by
  have hm (t : State) (x : Xlen) : RegFileKept t (t.settleM x) := by
    unfold State.settleM
    split
    · exact .staleAfter ⟨rfl, rfl⟩ t
    all_goals exact ⟨rfl, rfl⟩
  have hs (t : State) (x : Xlen) : RegFileKept t (t.settleS x) := by
    unfold State.settleS
    split <;> exact ⟨rfl, rfl⟩
  have hv (t : State) (x : Xlen) : RegFileKept t (t.settleVs x) := by
    rw [State.settleVs_same]
    exact ⟨rfl, rfl⟩
  exact ((hm s _).trans (hs _ _)).trans (hv _ _)

theorem RegFileKept.writePmpcfgs (n : Nat) (s : State) (i : Nat) (v : Word) :
    RegFileKept s (s.writePmpcfgs i v n) := by
  induction n generalizing s i v with
  | zero => exact .refl s
  | succ n ih => exact RegFileKept.trans ⟨rfl, rfl⟩ (ih _ _ _)

theorem RegFileKept.writeMCsr {s t : State} {r : CsrReg} {v : Word} (h : s.writeMCsr r v = some t) :
    RegFileKept s t := by
  cases r
  case mstatus => cases h; exact RegFileKept.trans ⟨rfl, rfl⟩ (.settle s _)
  case mideleg => cases h; exact .freeHideleg ⟨rfl, rfl⟩ s
  case mcause =>
    obtain ⟨c, -, rfl⟩ := Option.map_eq_some_iff.mp h
    exact ⟨rfl, rfl⟩
  case pmpcfg k => cases h; exact .staleAfter (.writePmpcfgs _ s _ v) s
  case pmpaddr i =>
    cases h
    split
    · exact .refl s
    · exact .staleAfter ⟨rfl, rfl⟩ s
  case mtval | mhpmcounter | mhpmcounterh | mhpmevent => cases h; split <;> exact ⟨rfl, rfl⟩
  all_goals cases h; exact ⟨rfl, rfl⟩

theorem RegFileKept.writeSCsr {s t : State} {r : CsrReg} {v : Word} (h : s.writeSCsr r v = some t) :
    RegFileKept s t := by
  cases r
  case scause =>
    obtain ⟨c, -, rfl⟩ := Option.map_eq_some_iff.mp h
    exact ⟨rfl, rfl⟩
  all_goals cases h; exact ⟨rfl, rfl⟩

theorem RegFileKept.writeHCsr {s t : State} {r : CsrReg} {v : Word} (h : s.writeHCsr r v = some t) :
    RegFileKept s t := by
  cases r
  case hstatus =>
    rw [State.writeHCsr] at h
    split at h
    · cases h
    · cases h; exact RegFileKept.trans ⟨rfl, rfl⟩ (.settle s _)
  all_goals cases h; exact ⟨rfl, rfl⟩

theorem RegFileKept.writeVsCsr {s t : State} {r : CsrReg} {v : Word} (h : s.writeVsCsr r v = some t) :
    RegFileKept s t := by
  cases r
  case vscause =>
    obtain ⟨c, -, rfl⟩ := Option.map_eq_some_iff.mp h
    exact ⟨rfl, rfl⟩
  all_goals cases h; exact ⟨rfl, rfl⟩

theorem RegFileKept.writeOther {s t : State} {r : CsrReg} {v : Word} (h : s.writeOther r v = some t) :
    RegFileKept s t := by
  unfold State.writeOther at h
  split at h
  all_goals first
    | exact .writeSCsr h
    | exact .writeHCsr h
    | exact .writeVsCsr h
    | exact .writeMCsr h

/-- A write of a register other than `misa` reaches neither the general registers nor the reservation. -/
theorem RegFileKept.csrWrite {s t : State} {r : CsrReg} {v : Word} (hr : r ≠ .misa) (h : s.csrWrite r v = some t) :
    RegFileKept s t := by
  unfold State.csrWrite at h
  split at h
  · exact absurd rfl hr
  · exact .writeOther h

theorem RegFileKept.freeRegs (l : List CsrReg) (s : State) : RegFileKept s (s.freeRegs l) := by
  induction l generalizing s with
  | nil => exact .refl s
  | cons r rest ih =>
    have hw : RegFileKept s ((s.writeOther r (Config.freeWord s.draws)).getD s) := by
      cases h : s.writeOther r (Config.freeWord s.draws) with
      | none => exact .refl s
      | some t => exact .writeOther h
    exact (hw.trans ⟨rfl, rfl⟩).trans (ih _)

/-! ## A write of `misa` -/

/-- The registers below `x16` are as in `s`. -/
def LowerXKept (s t : State) : Prop := ∀ k : RegIdx, k.toNat < 16 → t.readX k = s.readX k

theorem LowerXKept.of_x {s t : State} (h : t.x = s.x) : LowerXKept s t := fun k _ => s.readX_congr t k h

theorem LowerXKept.of_kept {s t : State} (h : RegFileKept s t) : LowerXKept s t := .of_x h.x_eq

theorem LowerXKept.trans {s t u : State} (h : LowerXKept s t) (k : LowerXKept t u) : LowerXKept s u :=
  fun r hr => (k r hr).trans (h r hr)

/-- The registers that come back with the base I are `x16` and up. -/
theorem LowerXKept.freeUpperX (s : State) : LowerXKept s s.freeUpperX := by
  intro k hk
  simp [State.readX, State.freeUpperX, hk]

theorem LowerXKept.onEnabled (s b : State) (n : Nat) {f : State → State} (hf : ∀ u, LowerXKept u (f u)) :
    LowerXKept s (s.onEnabled b n f) := by
  unfold State.onEnabled
  split
  · exact hf s
  · exact .of_x rfl

theorem LowerXKept.drawReservation (s : State) : LowerXKept s s.drawReservation := .of_x rfl

theorem LowerXKept.dropAbsent (s b : State) : LowerXKept s (s.dropAbsent b) := .of_x rfl

theorem LowerXKept.freeMpp (s b : State) : LowerXKept s (s.freeMpp b) := by
  unfold State.freeMpp
  split <;> exact .of_x rfl

theorem LowerXKept.freeUser (s : State) : LowerXKept s s.freeUser :=
  .of_kept (RegFileKept.trans ⟨rfl, rfl⟩ (.freeRegs userRegs _))

theorem LowerXKept.freeSupervisor (s : State) : LowerXKept s s.freeSupervisor := by
  unfold State.freeSupervisor
  dsimp only
  refine .of_kept (.trans (.trans ?_ (.settle s _)) (.freeRegs supervisorRegs _))
  exact ⟨rfl, rfl⟩

theorem LowerXKept.freeHypervisor (s : State) : LowerXKept s s.freeHypervisor :=
  .of_kept ((RegFileKept.freeRegs hypervisorRegs s).trans ⟨rfl, rfl⟩)

theorem LowerXKept.freeGained (s b : State) : LowerXKept s (s.freeGained b) :=
  .of_kept (.freeHideleg ⟨rfl, rfl⟩ b)

theorem LowerXKept.freeEnabled (s b : State) : LowerXKept s (s.freeEnabled b) := by
  unfold State.freeEnabled
  dsimp only
  refine .trans ?_ (.freeGained _ _)
  refine .trans ?_ (.onEnabled _ _ _ .freeHypervisor)
  refine .trans ?_ (.onEnabled _ _ _ .freeSupervisor)
  refine .trans ?_ (.onEnabled _ _ _ .freeUser)
  refine .trans ?_ (.freeMpp _ _)
  exact .trans (.onEnabled _ _ _ .drawReservation) (.onEnabled _ _ _ .freeUpperX)

theorem LowerXKept.writeMisa (s : State) (v : Word) : LowerXKept s (s.writeMisa v) := by
  unfold State.writeMisa
  dsimp only
  split
  · exact .of_x rfl
  · refine .trans (.trans (.of_kept ?_) (.dropAbsent _ s)) (.freeEnabled _ s)
    refine .trans ?_ (.settle s _)
    exact ⟨rfl, rfl⟩

/-- No CSR write reaches a general register below `x16`. -/
theorem LowerXKept.csrWrite {s t : State} {r : CsrReg} {v : Word} (h : s.csrWrite r v = some t) : LowerXKept s t := by
  by_cases hr : r = .misa
  · subst hr
    cases h
    exact .writeMisa s v
  · exact .of_kept (.csrWrite hr h)

/-! ## Completion -/

/-- What a CSR write leaves alone beside `pc`. -/
theorem CsrTouched.sameOutsideCsrs {s t : State} (h : CsrTouched s t) : s.SameOutsideCsrs t := by
  unfold CsrTouched at h
  rw [h]
  exact ⟨rfl, rfl, rfl, rfl, rfl, rfl, rfl, rfl, rfl, rfl, fun a => State.readPhys_congr _ _ a rfl rfl rfl rfl rfl⟩

theorem CsrTouched.pc_eq {s t : State} (h : CsrTouched s t) : t.pc = s.pc := by
  unfold CsrTouched at h
  rw [h]

/-- Settles O50: each form is one CSR operation, which writes in the state that the instruction otherwise leaves; the
write answers a state unless a WLRL field refuses, and touches CSRs only. -/
theorem csrInstructionsComplete : Obligations.CsrInstructionsComplete := by
  unfold Obligations.CsrInstructionsComplete
  intro s rd rs1 a named hn form hf hc r new
  have hnone : (s.advanced rd (s.csrRead r) (s.instretBefore true r)).csrWrite r new = none ↔ s.RefusesWlrl r new :=
    State.csrWrite_eq_none_iff _ r new
  refine ⟨fun hw => ?reads, fun hw h => exec_csrForm_refused hf hn rfl hc hw (hnone.mpr h), fun hw h => ?writes⟩
  case reads =>
    exact ⟨_, exec_csrForm_reads hf hn hc hw, s.wrote_advanced rd _ _, s.done_advanced rd _,
      fun a => State.readPhys_congr _ _ a rfl rfl rfl rfl rfl⟩
  case writes =>
    obtain ⟨t, ht⟩ := Option.ne_none_iff_exists'.mp (mt hnone.mp h)
    have htouched := CsrTouched.csrWrite _ _ _ _ ht
    refine ⟨_, t, exec_csrForm_writes hf hn rfl hc hw ht, s.wrote_advanced rd _ _, fun hr => ?_, fun h1 h2 => ?_, ht,
      fun hr => RegFileKept.csrWrite hr ht, LowerXKept.csrWrite ht, htouched.pc_eq, htouched.sameOutsideCsrs⟩
    · rw [State.instretBefore_of_counter hr]
      rfl
    · rw [State.instretBefore_of_ne h1 h2]
      exact s.done_advanced rd _

/-! ## The write of `misa` that is suppressed (R107) -/

theorem getLsbD_ite_of_clear {c : Prop} [Decidable c] {n i : Nat} {u v : BitVec n} (hu : u.getLsbD i = false)
    (hv : v.getLsbD i = false) : (if c then u else v).getLsbD i = false := by
  split <;> assumption

/-- A bit of `misa` that is written as clear and on which no other feature depends goes off (R105): the dependencies set
only I, S and U. -/
theorem State.legalExt_bitC {s : State} {v : Word} (hw : s.cfg.misaWritable.getLsbD Config.bitC = true)
    (hv : v.getLsbD Config.bitC = false) : (s.legalExt v).getLsbD Config.bitC = false := by
  simp only [Config.bitC] at hw hv ⊢
  unfold State.legalExt
  extract_lets w bit stuck asked keepsH keeps dropsS
  have hI : (bit Config.bitI).getLsbD 2 = false := by dsimp only [bit]; decide
  have hS : (bit Config.bitS).getLsbD 2 = false := by dsimp only [bit]; decide
  have hU : (bit Config.bitU).getLsbD 2 = false := by dsimp only [bit]; decide
  have hasked : asked.getLsbD 2 = false := by
    simp only [asked, w, BitVec.getLsbD_or, BitVec.getLsbD_and, BitVec.getLsbD_not, BitVec.getLsbD_setWidth, hw, hv]
    simp
  have hkeepsH : keepsH.getLsbD 2 = false :=
    getLsbD_ite_of_clear (by rw [BitVec.getLsbD_or, BitVec.getLsbD_or, hasked, hI, hS]; rfl) hasked
  have hkeeps : keeps.getLsbD 2 = false :=
    getLsbD_ite_of_clear (by rw [BitVec.getLsbD_or, hkeepsH, hU]; rfl) hkeepsH
  have hdropsS : dropsS.getLsbD 2 = false :=
    getLsbD_ite_of_clear hkeeps (by rw [BitVec.getLsbD_and, hkeeps, Bool.false_and])
  exact getLsbD_ite_of_clear hdropsS (by rw [BitVec.getLsbD_and, hdropsS, Bool.false_and])

/-- Two bytes past a 4-byte boundary, the next instruction is so too. -/
theorem bit_one_of_next_pc (xl : Xlen) (pc : Word) : (sxTo xl (pc + 4)).getLsbD 1 = pc.getLsbD 1 := by
  rw [sxTo_getLsbD_of_lt _ _ (by omega)]
  simp only [BitVec.getLsbD, Nat.testBit_eq_decide_div_mod_eq, BitVec.toNat_add, decide_eq_decide]
  have h4 : (4 : Word).toNat = 4 := rfl
  omega

theorem State.writeMisa_suppressed {s : State} {v : Word} (hC : s.hasC = true)
    (hw : s.cfg.misaWritable.getLsbD Config.bitC = true) (hpc : s.pc.getLsbD 1 = true)
    (hv : v.getLsbD Config.bitC = false) : s.writeMisa v = s := by
  simp [State.writeMisa, hC, hpc, State.legalExt_bitC hw hv]

/-- Settles O57: the instruction has gone on to the next address when it writes, and the write finds C switched off while
that address is not 4-byte aligned. -/
theorem misaWriteSuppressed : Obligations.MisaWriteSuppressed := by
  unfold Obligations.MisaWriteSuppressed
  intro s rd rs1
  refine ⟨rfl, fun hp hv hC hw hpc form hf hwrites hbit => ?_⟩
  have hbit' : (zxTo s.xlen (form.2.2 (s.csrStored .misa))).getLsbD Config.bitC = false := by
    rw [zxTo_getLsbD, hbit, Bool.and_false]
  have hnext : (sxTo s.xlen (s.pc + 4)).getLsbD 1 = true := (bit_one_of_next_pc _ _).trans hpc
  have hacc : s.Accessible 0x301 .misa := .of_machine hp hv rfl rfl rfl rfl
  exact ⟨_, hacc.exec_writes hf hwrites nofun nofun
    (congrArg some (State.writeMisa_suppressed hC hw hnext hbit')), rfl, rfl⟩

end Sys2Proof.Machine
end

section
/-! `sstatus` as a view of `mstatus`, with SD, and what a write of it reaches. -/

namespace Sys2Proof.Machine

open Sys2Proof

/-! ## Bits of flags and fields -/

theorem flag_getLsbD (b : Bool) {n : Nat} (hn : n < 64) (i : Nat) : (flag b n).getLsbD i = (b && (i == n)) := by
  cases b
  · simp [flag]
  · simp only [flag, if_true, BitVec.getLsbD_ofNat, Nat.testBit_two_pow]
    grind

theorem field2_getLsbD (v : BitVec 2) {n : Nat} (hn : n < 63) (i : Nat) :
    (field2 v n).getLsbD i = (((i == n) && v.getLsbD 0) || ((i == n + 1) && v.getLsbD 1)) := by
  obtain hlt | rfl | rfl | hgt : i < n ∨ i = n ∨ i = n + 1 ∨ n + 2 ≤ i := by omega
  · simp [field2, hlt, show i ≠ n by omega, show i ≠ n + 1 by omega]
  · simp [field2, show i < 64 by omega]
  · simp [field2, show n + 1 < 64 by omega]
  · simp [field2, show i ≠ n by omega, show i ≠ n + 1 by omega, BitVec.getLsbD_of_ge v (i - n) (by omega)]

theorem xlField_getLsbD (b : Bool) (x : Xlen) {n : Nat} (hn : n < 63) (i : Nat) :
    (xlField b x n).getLsbD i
      = (b && (((i == n) && (xlCode x).getLsbD 0) || ((i == n + 1) && (xlCode x).getLsbD 1))) := by
  cases b <;> simp [xlField, field2_getLsbD _ hn]

theorem sdBit_getLsbD (x : Xlen) (fs vs : BitVec 2) (i : Nat) :
    (sdBit x fs vs).getLsbD i = (sdFlag fs vs && (i == x.bits - 1)) :=
  flag_getLsbD _ (by cases x <;> decide) i

theorem eq_three_iff (v : BitVec 2) : v = 3#2 ↔ v.getLsbD 0 = true ∧ v.getLsbD 1 = true := by
  revert v
  decide

theorem extractLsb'_eq_three_iff (w : Word) (n : Nat) :
    w.extractLsb' n 2 = 3#2 ↔ w.getLsbD n = true ∧ w.getLsbD (n + 1) = true := by
  simp [-BitVec.getLsbD_eq_getElem, eq_three_iff]

theorem sdFlag_eq (fs vs : BitVec 2) :
    sdFlag fs vs = (fs.getLsbD 0 && fs.getLsbD 1 || vs.getLsbD 0 && vs.getLsbD 1) := by
  revert fs vs
  decide

/-! ## `mstatus` and `sstatus` as they read -/

/-- The shared fields have no bit outside those of `sstatus` (R250). -/
theorem State.sFields_getLsbD_of_notMem (s : State) {i : Nat} (hi : i ∉ sstatusBits) : s.sFields.getLsbD i = false := by
  simp only [sstatusBits, List.mem_cons, List.not_mem_nil, or_false, not_or] at hi
  simp [State.sFields, flag_getLsbD, field2_getLsbD, hi]

/-- `mstatus` shows the shared fields at their places. -/
theorem State.mstatusWord_getLsbD_of_mem (s : State) :
    ∀ i ∈ sstatusBits, s.mstatusWord.getLsbD i = s.sFields.getLsbD i := by
  have hm : ∀ i ∈ sstatusBits, s.mFields.getLsbD i = s.sFields.getLsbD i := by
    simp [sstatusBits, State.mFields, flag_getLsbD, field2_getLsbD]
  intro i hi
  rw [← hm i hi]
  revert i
  unfold State.mstatusWord
  cases s.mxlen <;> simp [sstatusBits, flag_getLsbD, xlField_getLsbD, sdBit_getLsbD, Xlen.bits]

/-- `sstatus` shows the shared fields at their places. -/
theorem State.sstatusWord_getLsbD_of_mem (s : State) :
    ∀ i ∈ sstatusBits, s.sstatusWord.getLsbD i = s.sFields.getLsbD i := by
  unfold State.sstatusWord
  cases s.sxlen <;> simp [sstatusBits, xlField_getLsbD, sdBit_getLsbD, Xlen.bits]

/-- FS, XS and VS as `mstatus` shows them, XS being zero (R133). -/
theorem State.sdFlag_eq_of_mstatusWord (s : State) :
    sdFlag s.mstatus.fs s.mstatus.vs
      = decide (s.mstatusWord.extractLsb' 13 2 = 3#2 ∨ s.mstatusWord.extractLsb' 15 2 = 3#2
        ∨ s.mstatusWord.extractLsb' 9 2 = 3#2) := by
  have hw := s.mstatusWord_getLsbD_of_mem
  simp only [extractLsb'_eq_three_iff, hw 13 (by decide), hw 14 (by decide), hw 15 (by decide), hw 16 (by decide),
    hw 9 (by decide), hw 10 (by decide), sdFlag_eq]
  simp [-BitVec.getLsbD_eq_getElem, State.sFields, flag_getLsbD, field2_getLsbD]

theorem State.mstatusWord_getLsbD_sd (s : State) :
    s.mstatusWord.getLsbD (s.mxlen.bits - 1) = sdFlag s.mstatus.fs s.mstatus.vs := by
  unfold State.mstatusWord
  cases s.mxlen <;>
    simp [-BitVec.getLsbD_eq_getElem, State.mFields, State.sFields, flag_getLsbD, field2_getLsbD, xlField_getLsbD,
      sdBit_getLsbD, Xlen.bits]

theorem State.sstatusWord_getLsbD_sd (s : State) :
    s.sstatusWord.getLsbD (s.sxlen.bits - 1) = sdFlag s.mstatus.fs s.mstatus.vs := by
  unfold State.sstatusWord
  cases s.sxlen <;>
    simp [-BitVec.getLsbD_eq_getElem, State.sFields, flag_getLsbD, field2_getLsbD, xlField_getLsbD, sdBit_getLsbD,
      Xlen.bits]

/-- Outside the shared fields, SD and UXL `sstatus` reads as zero. -/
theorem State.sstatusWord_getLsbD_of_notMem (s : State) {i : Nat} (hi : i ∉ sstatusBits) (hsd : i ≠ s.sxlen.bits - 1)
    (hxl : s.sxlen = .x64 → i ≠ 32 ∧ i ≠ 33) : s.sstatusWord.getLsbD i = false := by
  unfold State.sstatusWord
  cases hx : s.sxlen with
  | x32 =>
    rw [hx] at hsd
    simp [s.sFields_getLsbD_of_notMem hi, sdBit_getLsbD, hsd]
  | x64 =>
    rw [hx] at hsd
    simp [s.sFields_getLsbD_of_notMem hi, sdBit_getLsbD, xlField_getLsbD, hsd, hxl hx]

/-- SXLEN is 64 only where MXLEN is (R118). -/
theorem State.mxlen_of_sxlen {s : State} (h : s.sxlen = .x64) : s.mxlen = .x64 := by
  unfold State.sxlen at h
  unfold State.mxlen
  cases hm : s.mxl
  · rw [hm] at h
    cases h
  · rfl

/-- UXL as `sstatus` shows it is that of `mstatus` (R250, R254). -/
theorem State.uxl_of_sstatusWord {s : State} (h : s.sxlen = .x64) :
    s.sstatusWord.extractLsb' 32 2 = s.mstatusWord.extractLsb' 32 2 := by
  have bits (i : Nat) (hi : i = 32 ∨ i = 33) : s.sstatusWord.getLsbD i = s.mstatusWord.getLsbD i := by
    simp only [State.sstatusWord, State.mstatusWord, h, State.mxlen_of_sxlen h]
    obtain rfl | rfl := hi <;>
      simp [-BitVec.getLsbD_eq_getElem, State.mFields, flag_getLsbD, field2_getLsbD, xlField_getLsbD, sdBit_getLsbD,
        Xlen.bits]
  refine BitVec.eq_of_getLsbD_eq fun i hi => ?_
  rw [BitVec.getLsbD_extractLsb', BitVec.getLsbD_extractLsb', bits _ (by omega)]

theorem State.mstatushWord_getLsbD_of_ge (s : State) {i : Nat} (hi : 8 ≤ i) : s.mstatushWord.getLsbD i = false := by
  simp [State.mstatushWord, flag_getLsbD, show i ≠ 4 by omega, show i ≠ 5 by omega, show i ≠ 6 by omega,
    show i ≠ 7 by omega]

/-! ## A write of `sstatus` -/

/-- A write of `sstatus` sets SIE, SPIE, SPP and MXR as asked and reaches no field but those it shows (R250). -/
theorem State.writeSstatus_spec {s : State} (hS : s.hasS = true) (v : Word) :
    let f := s.writeSstatus v
    (f.sie = v.getLsbD 1 ∧ f.spie = v.getLsbD 5 ∧ f.spp = v.getLsbD 8 ∧ f.mxr = v.getLsbD 19)
      ∧ f = { s.mstatus with
          sie := f.sie, spie := f.spie, spp := f.spp, mxr := f.mxr, ube := f.ube, vs := f.vs, fs := f.fs
          sum := f.sum, uxl := f.uxl } := by
  unfold State.writeSstatus State.writeSFields
  simp only [hS, Bool.true_and]
  split <;> exact ⟨⟨rfl, rfl, rfl, rfl⟩, rfl⟩

/-- Settles O54: both words are the shared fields with SD, and the written word keeps its low 32 bits at either width. -/
theorem sdSummarisesDirtyState : Obligations.SdSummarisesDirtyState := by
  unfold Obligations.SdSummarisesDirtyState
  intro s w v sd
  have hsd : sdFlag s.mstatus.fs s.mstatus.vs = sd := s.sdFlag_eq_of_mstatusWord
  refine ⟨⟨hsd ▸ s.mstatusWord_getLsbD_sd, s.mstatushWord_getLsbD_of_ge (by decide),
      s.mstatushWord_getLsbD_of_ge (by decide)⟩,
    ⟨hsd ▸ s.sstatusWord_getLsbD_sd,
      fun i hi => (s.sstatusWord_getLsbD_of_mem i hi).trans (s.mstatusWord_getLsbD_of_mem i hi).symm,
      State.uxl_of_sstatusWord, fun i => s.sstatusWord_getLsbD_of_notMem⟩, ?_⟩
  intro rd rs1 hS hv hp form hf hw new
  have hacc : s.Accessible 0x100 .sstatus := .of_ne_user hp hv rfl (by decide) hS rfl rfl
  let done := s.advanced rd v s.nextInstret
  have hlow {i : Nat} (hi : i < 32) : (zxTo s.xlen new).getLsbD i = new.getLsbD i :=
    zxTo_getLsbD_of_lt new (lt_of_lt_of_le hi (thirtyTwo_le_bits s.xlen))
  obtain ⟨⟨hsie, hspie, hspp, hmxr⟩, hrest⟩ := State.writeSstatus_spec (s := done) hS (zxTo s.xlen new)
  rw [hlow (by decide)] at hsie hspie hspp hmxr
  exact ⟨{ done with mstatus := done.writeSstatus (zxTo s.xlen new) },
    hacc.exec_writes hf hw nofun nofun rfl, hsie, hspie, hspp, hmxr, hrest⟩

end Sys2Proof.Machine
end

section
/-! The interrupt-pending and interrupt-enable registers: the bits they show, the views of them that lower levels have,
and what the CSR instructions do to them. -/

namespace Sys2Proof.Machine

open Sys2Proof

/-! ## The bits each register implements -/

theorem supervisorBits_getLsbD (k : Nat) : (0x222#64).getLsbD k = decide (k ∈ [1, 5, 9]) :=
  getLsbD_eq_of_fin (p := fun k => decide (k ∈ [1, 5, 9])) (by decide) (fun k _ => by simp; omega) k

/-- SEI, STI and SSI, where they are implemented (R268). -/
theorem State.sBits_getLsbD {s : State} (hS : s.hasS = true) (k : Nat) :
    s.sBits.getLsbD k = (s.cfg.sIrqMask.getLsbD k && decide (k ∈ [1, 5, 9])) := by
  rw [State.sBits, hS, if_pos rfl, BitVec.getLsbD_and, supervisorBits_getLsbD]

theorem State.sBits_of_supervisor (s : State) (hS : s.hasS = true) {i : Nat} (hi : i ∈ [1, 5, 9]) :
    s.sBits.getLsbD i = s.cfg.sIrqMask.getLsbD i := by
  rw [State.sBits_getLsbD hS, decide_eq_true hi, Bool.and_true]

/-- The platform bits, of MXLEN bits (R150). -/
theorem State.platBits_getLsbD (s : State) (k : Nat) :
    s.platBits.getLsbD k
      = ((s.cfg.mipPlatformMask.getLsbD k || (s.hasH && s.cfg.hvipPlatformMask.getLsbD k))
        && decide (16 ≤ k) && decide (k < s.mxlen.bits)) := by
  have hplat : s.platBits = (s.cfg.mipPlatformMask ||| (if s.hasH then s.cfg.hvipPlatformMask else 0))
      &&& platformBits &&& widthMask s.mxlen := by
    unfold State.platBits
    cases s.mxlen <;> rfl
  by_cases hk : k < s.mxlen.bits
  · have h64 : k < 64 := lt_of_lt_of_le hk (bits_le _)
    rw [hplat]
    simp only [BitVec.getLsbD_and, BitVec.getLsbD_or, platformBits_getLsbD, widthMask_getLsbD, hk, h64]
    cases s.hasH <;> simp
  · simp [hplat, widthMask_getLsbD, hk]

/-- SXLEN is no wider than MXLEN (R118). -/
theorem State.sxlen_le_mxlen (s : State) : s.sxlen.bits ≤ s.mxlen.bits := by
  cases h : s.sxlen
  · exact thirtyTwo_le_bits _
  · rw [State.mxlen_of_sxlen h]

/-- In M-mode and in S-mode XLEN is no narrower than SXLEN (R33, R118). -/
theorem State.sxlen_le_xlen {s : State} (hp : s.priv ≠ .user) (hv : s.virt = false) : s.sxlen.bits ≤ s.xlen.bits := by
  unfold State.xlen
  rw [hv]
  cases h : s.priv
  · exact absurd h hp
  · exact le_rfl
  · exact s.sxlen_le_mxlen

/-- `hip` and `hie` are made of the bits that `hShows` names. -/
theorem State.hVisible_getLsbD (s : State) (k : Nat) : s.hVisible.getLsbD k = s.hShows k := by
  by_cases hk : k < s.sxlen.bits
  · have hm : k < s.mxlen.bits := lt_of_lt_of_le hk s.sxlen_le_mxlen
    rw [State.hVisible, BitVec.getLsbD_and, BitVec.getLsbD_or, State.hBits_getLsbD, widthMask_getLsbD, State.hShows,
      State.hvipBit]
    cases hH : s.hasH
    · simp
    · simp only [if_true, BitVec.getLsbD_and, State.platBits_getLsbD, hH, hk, hm]
      grind
  · simp [State.hVisible, State.hShows, widthMask_getLsbD, hk]

/-- SEI, STI and SSI are shown where they are delegated (R265). -/
theorem State.sShows_of_supervisor (s : State) {i : Nat} (hi : i ∈ [1, 5, 9]) : s.sShows i = s.mideleg.getLsbD i := by
  have hw := thirtyTwo_le_bits s.sxlen
  simp only [List.mem_cons, List.not_mem_nil, or_false] at hi
  simp [State.sShows, State.hvipBit, show i < s.sxlen.bits by omega, show ¬ 16 ≤ i by omega, show i ≠ 2 by omega,
    show i ≠ 6 by omega, show i ≠ 10 by omega, show i ≠ 12 by omega]

theorem State.lt_sxlen_of_sShows {s : State} {i : Nat} (h : s.sShows i = true) : i < s.sxlen.bits := by
  simp only [State.sShows, Bool.and_eq_true, decide_eq_true_eq] at h
  obtain ⟨⟨⟨hlt, -⟩, -⟩, -⟩ := h
  exact hlt

theorem State.lt_sxlen_of_hShows {s : State} {i : Nat} (h : s.hShows i = true) : i < s.sxlen.bits := by
  simp only [State.hShows, Bool.and_eq_true, decide_eq_true_eq] at h
  exact h.1

/-! ## What is delegated is implemented -/

theorem State.mieMask_of_mideleg {s : State} {k : Nat} (h : s.mideleg.getLsbD k = true) :
    s.mieMask.getLsbD k = true := by
  rw [State.mideleg, BitVec.getLsbD_or, BitVec.getLsbD_and, Bool.or_eq_true, Bool.and_eq_true] at h
  simp only [State.mieMask, BitVec.getLsbD_or]
  obtain ⟨-, writable⟩ | one := h
  · rw [State.midelegMask] at writable
    split at writable
    · simp only [BitVec.getLsbD_and, BitVec.getLsbD_or] at writable
      grind
    · simp at writable
  · rw [State.midelegOnes, BitVec.getLsbD_or, BitVec.getLsbD_and] at one
    grind

theorem State.mieMask_of_sShows {s : State} {k : Nat} (h : s.sShows k = true) : s.mieMask.getLsbD k = true := by
  simp only [State.sShows, Bool.and_eq_true] at h
  obtain ⟨⟨⟨-, hdeleg⟩, -⟩, -⟩ := h
  exact State.mieMask_of_mideleg hdeleg

theorem State.mieMask_of_hShows {s : State} {k : Nat} (h : s.hShows k = true) : s.mieMask.getLsbD k = true := by
  simp only [State.hShows, Bool.and_eq_true, Bool.or_eq_true] at h
  obtain ⟨-, standard | ⟨-, hdeleg⟩⟩ := h
  · have hbits : s.hBits.getLsbD k = true := by
      rw [State.hBits_getLsbD]
      simpa using standard
    rw [State.mieMask, BitVec.getLsbD_or, BitVec.getLsbD_or, hbits, Bool.or_true, Bool.true_or]
  · exact State.mieMask_of_mideleg hdeleg

/-- What is delegated to VS-mode is delegated to HS-mode (R415). -/
theorem State.mieMask_of_vsShows {s : State} {k : Nat} (h : s.vsShows k = true) : s.mieMask.getLsbD k = true := by
  simp only [State.vsShows, State.hideleg, State.hidelegMask, Bool.and_eq_true, BitVec.getLsbD_and] at h
  obtain ⟨-, -, hmask⟩ := h
  cases hH : s.hasH
  · simp [hH] at hmask
  · rw [hH, if_pos rfl, BitVec.getLsbD_and, Bool.and_eq_true] at hmask
    exact State.mieMask_of_mideleg hmask.2

/-! ## The bits of `vsip` and `vsie` (R396) -/

theorem toVsBits_getLsbD (w : Word) (i : Nat) :
    (toVsBits w).getLsbD i = ((decide (i ∈ [1, 5, 9]) && w.getLsbD (i + 1)) || (decide (16 ≤ i) && w.getLsbD i)) := by
  simp only [toVsBits, BitVec.getLsbD_or, BitVec.getLsbD_ushiftRight, BitVec.getLsbD_and, vsBits_getLsbD,
    platformBits_getLsbD, Nat.add_comm 1 i]
  by_cases hi : i < 64
  · simp [hi, Bool.and_comm]
  · simp [BitVec.getLsbD_of_ge _ _ (Nat.le_of_not_lt hi), BitVec.getLsbD_of_ge w (i + 1) (by omega)]

theorem fromVsBits_getLsbD_succ (w : Word) {i : Nat} (hi : i ∈ [1, 5, 9]) :
    (fromVsBits w).getLsbD (i + 1) = w.getLsbD i := by
  simp only [fromVsBits, BitVec.getLsbD_or, BitVec.getLsbD_shiftLeft, BitVec.getLsbD_and, supervisorBits_getLsbD,
    platformBits_getLsbD, Nat.add_sub_cancel, hi]
  simp only [List.mem_cons, List.not_mem_nil, or_false] at hi
  simp [show i + 1 < 64 by omega, show ¬ 16 ≤ i + 1 by omega]

/-! ## SSIP, STIP and SEIP -/

/-- SSIP and STIP read as their software bits, SEIP as the OR with the controller's signal (R152, R153). -/
theorem State.mip_getLsbD_of_supervisor (s : State) {i : Nat} (hi : i ∈ [1, 5, 9]) :
    s.mip.getLsbD i = (s.sBits.getLsbD i && (s.m.ip.getLsbD i || (s.lines.seip && i == 9))) := by
  have hplat : s.platBits.getLsbD i = false := by
    rw [State.platBits_getLsbD]
    revert i
    simp
  have hhip : s.hipStandard.getLsbD i = false := by
    unfold State.hipStandard
    revert i
    cases s.hasH <;> simp [flag_getLsbD]
  simp only [State.mip, BitVec.getLsbD_or, BitVec.getLsbD_and, hplat, hhip, flag_getLsbD, Nat.reduceLT]
  revert i
  simp [Bool.and_comm]

/-- What an instruction on `mip` combines with its mask is the software bit alone, where it is implemented (R152). -/
theorem State.csrStored_mip_getLsbD (s : State) {i : Nat} (hi : i ∈ [1, 5, 9]) (hb : s.sBits.getLsbD i = true) :
    (s.csrStored .mip).getLsbD i = s.m.ip.getLsbD i := by
  have h9 (k : Nat) : (0x200#64).getLsbD k = decide (k = 9) :=
    getLsbD_eq_of_fin (p := fun k => decide (k = 9)) (by decide) (fun k _ => by simp; omega) k
  have h64 : i < 64 := by
    revert i
    simp
  simp only [State.csrStored, BitVec.getLsbD_or, BitVec.getLsbD_and, BitVec.getLsbD_not, h9,
    s.mip_getLsbD_of_supervisor hi, hb, h64]
  by_cases h : i = 9 <;> simp [h]

/-! ## Instructions on the pending registers -/

section
variable {s : State} {rd rs1 : RegIdx} {a : BitVec 12} {r : CsrReg} {form : Instr × Bool × (Word → Word)}

/-- A low bit of the destination register. -/
theorem State.Wrote.getLsbD {t : State} {v : Word} (h : s.Wrote t rd v) (hrd : rd ≠ 0) {i : Nat} (hi : i < 32) :
    (t.readX rd).getLsbD i = v.getLsbD i := by
  rw [h rd, if_neg hrd, if_pos rfl, sxTo_getLsbD_of_lt _ _ hi]

/-- An instruction on `mip` or on a view of it: what it reads, and the software bits under the write mask `mask`, which it
computes from the held ones alone (R152). -/
theorem State.Accessible.exec_pending (h : s.Accessible a r) (hf : form ∈ csrForms s rd a rs1)
    (hr : r ≠ .minstret ∧ r ≠ .minstreth ∧ r ≠ .misa) {u : State} {mask : Word}
    (hu : (s.advanced rd (s.csrRead r) s.nextInstret).csrWrite r (zxTo s.xlen (form.2.2 (s.csrStored r))) = some u)
    (hip : u.m.ip = merge mask s.m.ip (zxTo s.xlen (form.2.2 (s.csrStored r))))
    (hstored : ∀ i ∈ [1, 5, 9], mask.getLsbD i = true → (s.csrStored r).getLsbD i = s.m.ip.getLsbD i) :
    ∃ t, exec form.1 s = .next t
      ∧ (rd ≠ 0 → (t.readX rd).getLsbD 9 = (s.csrRead r).getLsbD 9)
      ∧ ∀ i ∈ [1, 5, 9], t.m.ip.getLsbD i
          = if form.2.1 && mask.getLsbD i then (form.2.2 s.m.ip).getLsbD i else s.m.ip.getLsbD i := by
  obtain ⟨h1, h2, hmisa⟩ := hr
  have hwrote := s.wrote_advanced rd (s.csrRead r) s.nextInstret
  cases hw : form.2.1
  · exact ⟨_, h.exec_reads hf hw, fun hrd => hwrote.getLsbD hrd (by decide), fun i _ => rfl⟩
  · have hu' : s.Wrote u rd (s.csrRead r) := fun k =>
      (State.readX_congr _ _ k (RegFileKept.csrWrite hmisa hu).x_eq).trans (hwrote k)
    refine ⟨u, h.exec_writes hf hw h1 h2 hu, fun hrd => hu'.getLsbD hrd (by decide), fun i hi => ?_⟩
    rw [hip, merge_getLsbD, Bool.true_and]
    split
    · next hmask =>
      have hlt : i < s.xlen.bits := lt_of_lt_of_le (by revert i; simp) (thirtyTwo_le_bits s.xlen)
      rw [zxTo_getLsbD_of_lt _ hlt, csrForm_bitwise hf (hstored i hi hmask)]
    · rfl

/-- SEIP as `mip` reads it, and the software bits an instruction on `mip` leaves (R152, R153). -/
theorem exec_csrForm_mip (hp : s.priv = .machine) (hv : s.virt = false) (hS : s.hasS = true)
    (hf : form ∈ csrForms s rd 0x344 rs1) :
    ∃ t, exec form.1 s = .next t
      ∧ (rd ≠ 0 → (t.readX rd).getLsbD 9 = (s.cfg.sIrqMask.getLsbD 9 && (s.m.ip.getLsbD 9 || s.lines.seip)))
      ∧ ∀ i ∈ [1, 5, 9], t.m.ip.getLsbD i
          = if form.2.1 && s.cfg.sIrqMask.getLsbD i then (form.2.2 s.m.ip).getLsbD i else s.m.ip.getLsbD i := by
  have hacc : s.Accessible 0x344 .mip := .of_machine hp hv rfl rfl rfl rfl
  obtain ⟨t, ht, hread, hip⟩ := hacc.exec_pending hf ⟨nofun, nofun, nofun⟩ (mask := s.sBits) rfl rfl
    fun _ hi => s.csrStored_mip_getLsbD hi
  refine ⟨t, ht, fun hrd => (hread hrd).trans ?_, fun i hi => ?_⟩
  · refine (s.mip_getLsbD_of_supervisor (by decide)).trans ?_
    rw [s.sBits_of_supervisor hS (by decide), BEq.rfl, Bool.and_true]
  · rw [hip i hi, s.sBits_of_supervisor hS hi]

/-- SEIP as `sip` reads it, and the software bits an instruction on `sip` leaves (R265, R268). -/
theorem exec_csrForm_sip (hp : s.priv ≠ .user) (hv : s.virt = false) (hS : s.hasS = true)
    (hf : form ∈ csrForms s rd 0x144 rs1) :
    ∃ t, exec form.1 s = .next t
      ∧ (rd ≠ 0 → (t.readX rd).getLsbD 9
          = (s.mideleg.getLsbD 9 && s.cfg.sIrqMask.getLsbD 9 && (s.m.ip.getLsbD 9 || s.lines.seip)))
      ∧ t.m.ip.getLsbD 9 = s.m.ip.getLsbD 9 ∧ t.m.ip.getLsbD 5 = s.m.ip.getLsbD 5
      ∧ t.m.ip.getLsbD 1 = if form.2.1 && s.mideleg.getLsbD 1 && s.cfg.sIrqMask.getLsbD 1
          then (form.2.2 s.m.ip).getLsbD 1 else s.m.ip.getLsbD 1 := by
  have hmask {i : Nat} (hi : i ∈ [1, 5, 9]) : (2#64 &&& s.sVisible &&& s.sBits).getLsbD i
      = ((2#64).getLsbD i && s.mideleg.getLsbD i && s.cfg.sIrqMask.getLsbD i) := by
    rw [BitVec.getLsbD_and, BitVec.getLsbD_and, s.sVisible_getLsbD, s.sShows_of_supervisor hi,
      s.sBits_of_supervisor hS hi]
  have hstored (i : Nat) (hi : i ∈ [1, 5, 9]) (hm : (2#64 &&& s.sVisible &&& s.sBits).getLsbD i = true) :
      (s.csrStored .sip).getLsbD i = s.m.ip.getLsbD i := by
    simp only [BitVec.getLsbD_and, Bool.and_eq_true] at hm
    obtain ⟨⟨-, hvisible⟩, hbit⟩ := hm
    refine (BitVec.getLsbD_and (x := s.csrStored .mip)).trans ?_
    rw [hvisible, Bool.and_true, s.csrStored_mip_getLsbD hi hbit]
  have hacc : s.Accessible 0x144 .sip := .of_ne_user hp hv rfl (by decide) hS rfl rfl
  obtain ⟨t, ht, hread, hip⟩ := hacc.exec_pending hf ⟨nofun, nofun, nofun⟩
    (mask := 2#64 &&& s.sVisible &&& s.sBits) rfl rfl hstored
  have h2 (i : Nat) : (2#64).getLsbD i = decide (i = 1) :=
    getLsbD_eq_of_fin (p := fun k => decide (k = 1)) (by decide) (fun k _ => by simp; omega) i
  refine ⟨t, ht, fun hrd => (hread hrd).trans ?_, ?_, ?_, ?_⟩
  · refine (BitVec.getLsbD_and (x := s.mip)).trans ?_
    rw [s.mip_getLsbD_of_supervisor (by decide), s.sVisible_getLsbD, s.sShows_of_supervisor (by decide),
      s.sBits_of_supervisor hS (by decide)]
    simp only [BEq.rfl, Bool.and_true]
    ac_rfl
  · rw [hip 9 (by decide), hmask (by decide), h2]
    simp
  · rw [hip 5 (by decide), hmask (by decide), h2]
    simp
  · rw [hip 1 (by decide), hmask (by decide), h2]
    simp [Bool.and_assoc]

end

/-! ## Writes of the enable registers -/

/-- `mie` takes the bits of `value` that `mask` names, where it implements them. -/
def State.withIe (s : State) (mask value : Word) : State :=
  { s with m := { s.m with ie := merge (s.mieMask &&& mask) s.m.ie value } }

/-- `mie` after a write through a register that shows only what is implemented. -/
theorem State.mie_withIe (s : State) {mask : Word} (value : Word)
    (himpl : ∀ i, mask.getLsbD i = true → s.mieMask.getLsbD i = true) (i : Nat) :
    (s.withIe mask value).mie.getLsbD i = if mask.getLsbD i then value.getLsbD i else s.mie.getLsbD i := by
  have hmie : (s.withIe mask value).mie = merge (s.mieMask &&& mask) s.m.ie value &&& s.mieMask := rfl
  rw [hmie, BitVec.getLsbD_and, merge_getLsbD, BitVec.getLsbD_and, State.mie, BitVec.getLsbD_and]
  cases hm : mask.getLsbD i
  · simp
  · simp [himpl i hm]

theorem State.csrWrite_sie (s : State) (v : Word) :
    s.csrWrite .sie v = some (s.withIe s.sVisible (zxTo s.sxlen v)) := rfl

theorem State.csrWrite_hie (s : State) (v : Word) :
    s.csrWrite .hie v = some (s.withIe s.hVisible (zxTo s.sxlen v)) := rfl

theorem State.csrWrite_vsie (s : State) (v : Word) :
    s.csrWrite .vsie v = some (s.withIe s.vsVisible (fromVsBits (zxTo s.vsxlen v))) := rfl

section
variable {s : State} {rd rs1 : RegIdx} {a : BitVec 12} {r : CsrReg} {form : Instr × Bool × (Word → Word)}

/-- A write of an enable register: `mie` as it reads then. -/
theorem State.Accessible.exec_enable (h : s.Accessible a r) (hf : form ∈ csrForms s rd a rs1) (hw : form.2.1 = true)
    (hr : r ≠ .minstret ∧ r ≠ .minstreth) {mask value : Word} {shows : Nat → Bool}
    (hmask : ∀ i, mask.getLsbD i = shows i) (himpl : ∀ {i}, shows i = true → s.mieMask.getLsbD i = true)
    (hu : (s.advanced rd (s.csrRead r) s.nextInstret).csrWrite r (zxTo s.xlen (form.2.2 (s.csrStored r)))
      = some ((s.advanced rd (s.csrRead r) s.nextInstret).withIe mask value)) :
    ∃ t, exec form.1 s = .next t ∧ ∀ i, (t.csrRead .mie).getLsbD i
      = if shows i then value.getLsbD i else (s.csrRead .mie).getLsbD i := by
  refine ⟨_, h.exec_writes hf hw hr.1 hr.2 hu, fun i => ?_⟩
  rw [← hmask i]
  exact State.mie_withIe (s.advanced rd (s.csrRead r) s.nextInstret) value (fun k hk => himpl (hmask k ▸ hk)) i

/-- A write of `sie` or `hie`, which have HSXLEN bits at the places of `mie` (R265, R348). -/
theorem State.Accessible.exec_enable_inPlace (h : s.Accessible a r) (hp : s.priv ≠ .user)
    (hf : form ∈ csrForms s rd a rs1) (hw : form.2.1 = true) (hr : r ≠ .minstret ∧ r ≠ .minstreth)
    (hstored : s.csrStored r = s.csrRead r) {mask : Word} {shows : Nat → Bool} (hmask : ∀ i, mask.getLsbD i = shows i)
    (himpl : ∀ {i}, shows i = true → s.mieMask.getLsbD i = true) (hlt : ∀ i, shows i = true → i < s.sxlen.bits)
    (hu : (s.advanced rd (s.csrRead r) s.nextInstret).csrWrite r (zxTo s.xlen (form.2.2 (s.csrStored r)))
      = some ((s.advanced rd (s.csrRead r) s.nextInstret).withIe mask
        (zxTo s.sxlen (zxTo s.xlen (form.2.2 (s.csrStored r)))))) :
    ∃ t, exec form.1 s = .next t ∧ ∀ i, (t.csrRead .mie).getLsbD i
      = if shows i then (form.2.2 (s.csrRead r)).getLsbD i else (s.csrRead .mie).getLsbD i := by
  obtain ⟨t, ht, hmie⟩ := h.exec_enable hf hw hr hmask himpl hu
  refine ⟨t, ht, fun i => (hmie i).trans ?_⟩
  split
  · next hi =>
    have hi := hlt i hi
    rw [zxTo_getLsbD_of_lt _ hi, zxTo_getLsbD_of_lt _ (lt_of_lt_of_le hi (State.sxlen_le_xlen hp h.virt)), hstored]
  · rfl

/-- A write of `sie` (R265). -/
theorem exec_csrForm_sie (hp : s.priv ≠ .user) (hv : s.virt = false) (hS : s.hasS = true)
    (hf : form ∈ csrForms s rd 0x104#12 rs1) (hw : form.2.1 = true) :
    ∃ t, exec form.1 s = .next t ∧ ∀ i, (t.csrRead .mie).getLsbD i
      = if s.sShows i then (form.2.2 (s.csrRead .sie)).getLsbD i else (s.csrRead .mie).getLsbD i := by
  have hacc : s.Accessible 0x104#12 .sie := .of_ne_user hp hv rfl (by decide) hS rfl rfl
  exact hacc.exec_enable_inPlace hp hf hw ⟨nofun, nofun⟩ rfl s.sVisible_getLsbD State.mieMask_of_sShows
    (fun _ => State.lt_sxlen_of_sShows) (State.csrWrite_sie _ _)

/-- A write of `hie` (R348). -/
theorem exec_csrForm_hie (hp : s.priv ≠ .user) (hv : s.virt = false) (hH : s.hasH = true)
    (hf : form ∈ csrForms s rd 0x604#12 rs1) (hw : form.2.1 = true) :
    ∃ t, exec form.1 s = .next t ∧ ∀ i, (t.csrRead .mie).getLsbD i
      = if s.hShows i then (form.2.2 (s.csrRead .hie)).getLsbD i else (s.csrRead .mie).getLsbD i := by
  have hacc : s.Accessible 0x604#12 .hie := .of_ne_user hp hv rfl (by decide) hH rfl rfl
  exact hacc.exec_enable_inPlace hp hf hw ⟨nofun, nofun⟩ rfl s.hVisible_getLsbD State.mieMask_of_hShows
    (fun _ => State.lt_sxlen_of_hShows) (State.csrWrite_hie _ _)

/-- A write of `vsie` reaches the VS-level bits of `mie`, one place higher (R396). -/
theorem exec_csrForm_vsie (hp : s.priv ≠ .user) (hv : s.virt = false) (hH : s.hasH = true)
    (hf : form ∈ csrForms s rd 0x204 rs1) (hw : form.2.1 = true) :
    ∃ t, exec form.1 s = .next t ∧ ∀ i ∈ [1, 5, 9], (t.csrRead .mie).getLsbD (i + 1)
      = if s.vsShows (i + 1) then (form.2.2 (s.csrRead .vsie)).getLsbD i else (s.csrRead .mie).getLsbD (i + 1) := by
  have hacc : s.Accessible 0x204 .vsie := .of_ne_user hp hv rfl (by decide) hH rfl rfl
  obtain ⟨t, ht, hmie⟩ := hacc.exec_enable hf hw ⟨nofun, nofun⟩ (mask := s.vsVisible)
    (value := fromVsBits (zxTo s.vsxlen (zxTo s.xlen (form.2.2 (s.csrRead .vsie))))) s.vsVisible_getLsbD
    State.mieMask_of_vsShows (State.csrWrite_vsie _ _)
  refine ⟨t, ht, fun i hi => (hmie (i + 1)).trans ?_⟩
  have hlow : i < 32 := by
    revert i
    simp
  rw [fromVsBits_getLsbD_succ _ hi, zxTo_getLsbD_of_lt _ (lt_of_lt_of_le hlow (thirtyTwo_le_bits _)),
    zxTo_getLsbD_of_lt _ (lt_of_lt_of_le hlow (thirtyTwo_le_bits _))]

end

/-! ## The views -/

/-- `sip` and `sie`, `hip` and `hie` show bits of `mip` and `mie` at their places (R265, R348). -/
theorem State.csrRead_view (s : State) : ∀ view ∈ [(CsrReg.sip, CsrReg.mip, s.sShows), (.sie, .mie, s.sShows),
      (.hip, .mip, s.hShows), (.hie, .mie, s.hShows)],
    ∀ i, (s.csrRead view.1).getLsbD i = ((s.csrRead view.2.1).getLsbD i && view.2.2 i) := by
  have hs (w : Word) (i : Nat) : (w &&& s.sVisible).getLsbD i = (w.getLsbD i && s.sShows i) := by
    rw [BitVec.getLsbD_and, s.sVisible_getLsbD]
  have hh (w : Word) (i : Nat) : (w &&& s.hVisible).getLsbD i = (w.getLsbD i && s.hShows i) := by
    rw [BitVec.getLsbD_and, s.hVisible_getLsbD]
  simp only [List.forall_mem_cons]
  exact ⟨hs s.mip, hs s.mie, hh s.mip, hh s.mie, List.forall_mem_nil _⟩

/-- What `vsip` and `vsie` show of the word `w` (R396, D27). -/
theorem State.toVsBits_vsVisible (s : State) (w : Word) :
    (∀ i ∈ [1, 5, 9], (toVsBits (w &&& s.vsVisible)).getLsbD i = (w.getLsbD (i + 1) && s.vsShows (i + 1)))
      ∧ (∀ i, 16 ≤ i → (toVsBits (w &&& s.vsVisible)).getLsbD i = (w.getLsbD i && s.vsShows i))
      ∧ ∀ i, i < 16 → i ∉ [1, 5, 9] → (toVsBits (w &&& s.vsVisible)).getLsbD i = false := by
  simp only [toVsBits_getLsbD, BitVec.getLsbD_and, s.vsVisible_getLsbD]
  refine ⟨fun i hi => ?_, fun i hi => ?_, fun i hi hn => ?_⟩
  · have h16 : ¬ 16 ≤ i := by
      revert i
      simp
    simp [hi, h16]
  · have hn : i ∉ [1, 5, 9] := by
      simp
      omega
    simp only [hi, hn, decide_true, decide_false, Bool.false_and, Bool.false_or, Bool.true_and]
  · simp only [hn, Nat.not_le.mpr hi, decide_false, Bool.false_and, Bool.or_false]

/-- `vsip` and `vsie` show bits of `mip` and `mie` (R396). -/
theorem State.csrRead_vsView (s : State) : ∀ view ∈ [(CsrReg.vsip, CsrReg.mip), (.vsie, .mie)],
    (∀ i ∈ [1, 5, 9], (s.csrRead view.1).getLsbD i = ((s.csrRead view.2).getLsbD (i + 1) && s.vsShows (i + 1)))
      ∧ (∀ i, 16 ≤ i → (s.csrRead view.1).getLsbD i = ((s.csrRead view.2).getLsbD i && s.vsShows i))
      ∧ ∀ i, i < 16 → i ∉ [1, 5, 9] → (s.csrRead view.1).getLsbD i = false := by
  simp only [List.forall_mem_cons (a := (CsrReg.vsip, _)), List.forall_mem_cons (a := (CsrReg.vsie, _))]
  exact ⟨s.toVsBits_vsVisible s.mip, s.toVsBits_vsVisible s.mie, List.forall_mem_nil _⟩

/-- Settles O55: an instruction on a pending register computes the software bits from the held ones, one on an enable
register reaches the bits of `mie` it shows, and each view is its register under the bits it shows. -/
theorem seipReadModifyWrite : Obligations.SeipReadModifyWrite := by
  unfold Obligations.SeipReadModifyWrite
  intro s rd rs1 has
  refine ⟨fun hp hv hS form hf => exec_csrForm_mip hp hv hS hf, fun hp hv hS form hf => exec_csrForm_sip hp hv hS hf,
    s.csrRead_view, s.csrRead_vsView, fun hp hv => ?_, fun hp hv hH form hf hw => exec_csrForm_vsie hp hv hH hf hw⟩
  simp only [List.forall_mem_cons]
  exact ⟨fun hS form hf hw => exec_csrForm_sie hp hv hS hf hw, fun hH form hf hw => exec_csrForm_hie hp hv hH hf hw,
    List.forall_mem_nil _⟩

end Sys2Proof.Machine
end

section
/-! PMP: what `pmpaddr` shows through the grain, which bytes an entry matches by its A field, and the scan for the entry
that decides an access. -/

namespace Sys2Proof.Machine

open Sys2Proof

/-! ## `pmpaddr` as it reads (R476) -/

theorem ones_zero_getLsbD (n k : Nat) : (ones 0 n).getLsbD k = (decide (k < 64) && decide (k < n)) := by
  simp [ones, BitVec.getLsbD_ofNat, Nat.testBit_two_pow_sub_one]

theorem State.pmpaddrWidth_eq (s : State) : s.pmpaddrWidth = if s.mxlen = .x32 then 32 else 54 := by
  unfold State.pmpaddrWidth
  cases s.mxlen <;> rfl

theorem State.pmpaddrWidth_le (s : State) : s.pmpaddrWidth ≤ 64 := by
  rw [State.pmpaddrWidth_eq]
  split <;> decide

/-- NA4 and NAPOT read ones below bit G-1, OFF and TOR zeros below bit G. -/
theorem State.pmpAddr_getLsbD (s : State) (i k : Nat) :
    (s.pmpAddr i).getLsbD k =
      if 2 ≤ pmpA (s.pmpCfg i) then
        (s.pmpAddrRaw i).getLsbD k || (decide (k + 1 < s.cfg.pmpG) && decide (k < s.pmpaddrWidth))
      else (s.pmpAddrRaw i).getLsbD k && decide (s.cfg.pmpG ≤ k) := by
  have hw := s.pmpaddrWidth_le
  have raw_high (h : 64 ≤ k) : (s.pmpAddrRaw i).getLsbD k = false := BitVec.getLsbD_of_ge _ _ h
  unfold State.pmpAddr
  split
  · by_cases hg : 2 ≤ s.cfg.pmpG
    · rw [if_pos hg, BitVec.getLsbD_or, ones_zero_getLsbD]
      congr 1
      grind
    · have hk : ¬ k + 1 < s.cfg.pmpG := by omega
      simp [hg, hk]
  · by_cases hg : 1 ≤ s.cfg.pmpG
    · rw [if_pos hg, BitVec.getLsbD_and, BitVec.getLsbD_not, ones_zero_getLsbD]
      grind
    · have hk : s.cfg.pmpG ≤ k := by omega
      simp [hg, hk]

/-- The grain hides nothing of a TOR bound: it can be taken from the register as it reads (R475, R476). -/
theorem State.pmpBound_eq (s : State) (i : Nat) :
    s.pmpBound i = (s.pmpAddr i).toNat / 2 ^ s.cfg.pmpG * 2 ^ s.cfg.pmpG := by
  have above_grain : (s.pmpAddrRaw i).toNat >>> s.cfg.pmpG = (s.pmpAddr i).toNat >>> s.cfg.pmpG := by
    refine Nat.eq_of_testBit_eq fun k => ?_
    have hk : ¬ s.cfg.pmpG + k + 1 < s.cfg.pmpG := by omega
    rw [Nat.testBit_shiftRight, Nat.testBit_shiftRight, BitVec.testBit_toNat, BitVec.testBit_toNat, s.pmpAddr_getLsbD]
    simp [hk]
  rw [State.pmpBound, above_grain, Nat.shiftLeft_eq, Nat.shiftRight_eq_div_pow]

/-! ## Which bytes an entry matches (R473 to R475) -/

section
variable {s : State} {i : Nat}

theorem State.pmpMatches_off (h : pmpA (s.pmpCfg i) = 0) (y : Nat) : s.pmpMatches i y = false := by
  rw [State.pmpMatches, h]
  rfl

theorem State.pmpMatches_tor_iff (h : pmpA (s.pmpCfg i) = 1) (y : Nat) :
    s.pmpMatches i y = true ↔ (0 < i → s.pmpBound (i - 1) ≤ y / 4) ∧ y / 4 < s.pmpBound i := by
  rw [State.pmpMatches, h]
  obtain rfl | hi := Nat.eq_zero_or_pos i
  · simp [Nat.shiftRight_eq_div_pow]
  · simp [Nat.shiftRight_eq_div_pow, hi, hi.ne']

theorem State.pmpMatches_na4_iff (h : pmpA (s.pmpCfg i) = 2) (y : Nat) :
    s.pmpMatches i y = true ↔ y / 4 = (s.pmpAddr i).toNat := by
  rw [State.pmpMatches, h]
  simp [Nat.shiftRight_eq_div_pow]

/-- A number that ends in a zero and `t` ones has `t` trailing ones. -/
theorem trailingOnes_eq {t fuel a : Nat} (hf : t ≤ fuel) (ha : a % 2 ^ (t + 1) = 2 ^ t - 1) :
    trailingOnes fuel a = t := by
  induction t generalizing fuel a with
  | zero =>
    cases fuel with
    | zero => rfl
    | succ f => simp_all [trailingOnes]
  | succ t ih =>
    obtain ⟨f, rfl⟩ : ∃ f, fuel = f + 1 := ⟨fuel - 1, by omega⟩
    have hpos : 0 < 2 ^ t := Nat.two_pow_pos t
    have hpow : 2 ^ (t + 1) = 2 * 2 ^ t := Nat.pow_succ'
    rw [Nat.pow_succ' (n := t + 1)] at ha
    have odd : a % 2 = 1 := by
      rw [← Nat.mod_mul_right_mod a 2 (2 ^ (t + 1)), ha]
      omega
    have half : a / 2 % 2 ^ (t + 1) = 2 ^ t - 1 := by
      rw [← Nat.mod_mul_right_div_self, ha]
      omega
    rw [trailingOnes, if_pos odd, ih (Nat.le_of_succ_le_succ hf) half]

theorem State.pmpMatches_napot_iff (h : pmpA (s.pmpCfg i) = 3) {t : Nat}
    (ht : (s.pmpAddr i).toNat % 2 ^ (t + 1) = 2 ^ t - 1) (y : Nat) :
    s.pmpMatches i y = true ↔ y / 2 ^ (t + 3) = (s.pmpAddr i).toNat / 2 ^ (t + 1) := by
  have fits : t ≤ 64 := by
    have hle : 2 ^ t - 1 ≤ (s.pmpAddr i).toNat := ht ▸ Nat.mod_le _ _
    have hlt := (s.pmpAddr i).isLt
    exact (Nat.pow_le_pow_iff_right Nat.one_lt_two).1 (by omega)
  rw [State.pmpMatches, h]
  simp [trailingOnes_eq fits ht, Nat.shiftRight_eq_div_pow]

end

/-! ## The entry that decides (R478, R479) -/

theorem State.pmpCount_eq_count (s : State) (i pa n : Nat) :
    s.pmpCount i pa n = Nat.count (fun k => s.pmpMatches i (pa + k) = true) n := by
  induction n with
  | zero => rfl
  | succ n ih => rw [State.pmpCount, ih, Nat.count_succ, Nat.add_comm]

theorem State.pmpCount_eq_zero_iff (s : State) (i pa n : Nat) :
    s.pmpCount i pa n = 0 ↔ ∀ k, k < n → s.pmpMatches i (pa + k) = false := by
  simp [State.pmpCount_eq_count, Nat.count_iff_forall_not]

theorem State.not_pmpCount_lt_iff (s : State) (i pa n : Nat) :
    ¬ s.pmpCount i pa n < n ↔ ∀ k, k < n → s.pmpMatches i (pa + k) = true := by
  rw [State.pmpCount_eq_count, ← Nat.count_iff_forall]
  have hle : Nat.count (fun k => s.pmpMatches i (pa + k) = true) n ≤ n := Nat.count_le _
  omega

theorem pmpAllows_iff (c : Byte) (need : Need) :
    pmpAllows c need = true ↔ (need.r = true → c.getLsbD 0 = true) ∧ (need.w = true → c.getLsbD 1 = true)
      ∧ (need.x = true → c.getLsbD 2 = true) := by
  simp only [pmpAllows, Bool.and_eq_true, Bool.or_eq_true, Bool.not_eq_true', ← Bool.not_eq_true, ← imp_iff_not_or,
    and_assoc]

section
variable {s : State} {pa n : Nat} {need : Need} {mode : Priv}

/-- Entries that match no byte of the access are passed over. -/
theorem State.pmpCheck_eq_scan_from {i : Nat} (hi : i ≤ s.cfg.pmpCount)
    (below : ∀ j, j < i → ∀ k, k < n → s.pmpMatches j (pa + k) = false) :
    s.pmpCheck pa n need mode = s.pmpScan pa n need mode (s.cfg.pmpCount - i) i := by
  induction i with
  | zero => rfl
  | succ i ih =>
    have hnone : s.pmpCount i pa n = 0 := (s.pmpCount_eq_zero_iff i pa n).2 (below i (Nat.lt_succ_self i))
    have hleft : s.cfg.pmpCount - i = s.cfg.pmpCount - (i + 1) + 1 := by omega
    rw [ih (by omega) fun j hj => below j (by omega), hleft, State.pmpScan, if_pos hnone]

/-- An entry that matches a byte of the access decides the scan that comes to it. -/
theorem State.pmpScan_iff_of_match {i left : Nat} (hm : ∃ k, k < n ∧ s.pmpMatches i (pa + k) = true) :
    s.pmpScan pa n need mode (left + 1) i = true ↔
      (∀ k, k < n → s.pmpMatches i (pa + k) = true)
        ∧ ((mode = .machine ∧ pmpLocked (s.pmpCfg i) = false) ∨ pmpAllows (s.pmpCfg i) need = true) := by
  have some_byte : s.pmpCount i pa n ≠ 0 := by
    obtain ⟨k, hk, hmatch⟩ := hm
    rw [Ne, s.pmpCount_eq_zero_iff]
    intro none
    exact Bool.false_ne_true ((none k hk).symm.trans hmatch)
  rw [State.pmpScan, if_neg some_byte, ← s.not_pmpCount_lt_iff]
  by_cases hall : s.pmpCount i pa n < n
  · simp [hall]
  · by_cases hmode : mode = .machine <;> cases hlock : pmpLocked (s.pmpCfg i) <;> simp [hall, hmode]

end

/-- Settles O40: the bytes by the A field, then the scan, which passes over the entries that match no byte. -/
theorem pmpLowestMatchDecides : Obligations.PmpLowestMatchDecides := by
  unfold Obligations.PmpLowestMatchDecides
  refine ⟨fun s i y => ⟨fun h => State.pmpMatches_off h y, fun h => ?_, fun h => State.pmpMatches_na4_iff h y,
    fun h t ht => State.pmpMatches_napot_iff h ht y, fun k => ?_⟩, fun s pa n need mode _ => ⟨fun none => ?_, ?_⟩⟩
  · rw [State.pmpMatches_tor_iff h, State.pmpBound_eq, State.pmpBound_eq]
    rfl
  · rw [← State.pmpaddrWidth_eq]
    exact s.pmpAddr_getLsbD i k
  · rw [State.pmpCheck_eq_scan_from le_rfl none, Nat.sub_self, State.pmpScan]
  · intro i hi hmatch below
    obtain ⟨left, hleft⟩ : ∃ left, s.cfg.pmpCount - i = left + 1 := ⟨s.cfg.pmpCount - i - 1, by omega⟩
    rw [State.pmpCheck_eq_scan_from hi.le below, hleft, State.pmpScan_iff_of_match hmatch, pmpAllows_iff]

end Sys2Proof.Machine
end

section
/-! The fences on the translation cache: which entries each takes out, and what it leaves of the rest of the state. -/

namespace Sys2Proof.Machine

open Sys2Proof

/-! ## Operands -/

theorem State.fenceSpace_eq (s : State) (bits : Nat) (rs2 : RegIdx) :
    s.fenceSpace bits rs2 = if rs2 = 0 then none else some ((s.src rs2).toNat % 2 ^ bits) := by
  rw [State.fenceSpace, bitsAt_zero]

theorem State.fenceAddr_eq_none_iff (s : State) (xl : Xlen) (rs1 : RegIdx) : s.fenceAddr xl rs1 = none ↔ rs1 = 0 := by
  simp [State.fenceAddr]

theorem State.fenceSpace_eq_none_iff (s : State) (bits : Nat) (rs2 : RegIdx) :
    s.fenceSpace bits rs2 = none ↔ rs2 = 0 := by
  simp [State.fenceSpace]

/-- A fence is of everything when both operands are `x0`. -/
theorem State.fenceSel_all (s : State) (xl : Xlen) (bits : Nat) (rs1 rs2 : RegIdx) (f : Word → Nat) :
    FenceSel.all { addr := (s.fenceAddr xl rs1).map f, space := s.fenceSpace bits rs2 } = decide (rs1 = 0 ∧ rs2 = 0) := by
  rw [Bool.eq_iff_iff]
  simp [FenceSel.all, Option.isNone_iff_eq_none, State.fenceAddr_eq_none_iff, State.fenceSpace_eq_none_iff]

/-! ## Selected entries (R571) -/

theorem TcEntry.selected_iff (e : TcEntry) (addr : Option Word) (space : Option Nat) :
    e.selected { addr := addr.map (·.toNat), space := space } = true ↔ FenceSelects e addr space := by
  cases addr <;> cases space <;> simp [TcEntry.selected, FenceSelects]

/-! ## What a fence leaves (R481, R656 to R658, R660) -/

/-- A fence that takes the entries `gone` out of the cache and then retires. -/
theorem State.fencedTo_retire {s u : State} {gone : TcEntry → Prop} {pmp pmpG : Bool}
    (tc : ∀ e, e ∈ u.tc ↔ e ∈ s.tc ∧ ¬ gone e)
    (same : u = { s with
      tc := u.tc, pmpStale := if pmp then [] else s.pmpStale, pmpStaleG := if pmpG then [] else s.pmpStaleG }) :
    s.FencedTo u.retire gone pmp pmpG := by
  refine ⟨fun e => by rw [State.retire_tc, tc], ?_⟩
  rw [State.retire_tc, State.retire, State.retireTo_eq]
  generalize u.tc = l at same ⊢
  subst same
  rfl

/-- A fence whose address is not valid takes nothing out. -/
theorem State.fencedTo_retire_of_none (s : State) {gone : TcEntry → Prop} (none_gone : ∀ e, ¬ gone e) :
    s.FencedTo s.retire gone false false :=
  State.fencedTo_retire (fun e => (and_iff_left (none_gone e)).symm) rfl

theorem mem_filter_not_iff {l : List TcEntry} {sel : TcEntry → Bool} {gone : TcEntry → Prop}
    (h : ∀ e, sel e = true ↔ gone e) (e : TcEntry) : e ∈ l.filter (fun e => !sel e) ↔ e ∈ l ∧ ¬ gone e := by
  rw [List.mem_filter, Bool.not_eq_true', ← h e, Bool.not_eq_true]

/-- SFENCE.VMA with V = 0 (R656). -/
theorem State.sfence_fencedTo {s : State} (hv : s.virt = false) (rs1 rs2 : RegIdx) :
    s.FencedTo (s.sfence rs1 rs2).retire
      (fun e => e.kind = .hs ∧ validAddr s.sxlen s.s.atp (s.fenceAddr s.sxlen rs1) = true
        ∧ FenceSelects e (s.fenceAddr s.sxlen rs1) (s.fenceSpace (s.asidBits s.sxlen) rs2))
      (decide (rs1 = 0 ∧ rs2 = 0)) false := by
  rw [State.sfence, hv, if_neg Bool.false_ne_true]
  by_cases valid : validAddr s.sxlen s.s.atp (s.fenceAddr s.sxlen rs1) = true
  · rw [if_pos valid]
    refine State.fencedTo_retire (mem_filter_not_iff fun e => ?_) ?_
    · rw [Bool.and_eq_true, beq_iff_eq, TcEntry.selected_iff]
      simp only [valid, true_and]
    · rw [← s.fenceSel_all s.sxlen (s.asidBits s.sxlen) rs1 rs2 (·.toNat)]
      rfl
  · have named : rs1 ≠ 0 := by
      rintro rfl
      exact valid rfl
    rw [if_neg valid, decide_eq_false fun h => named h.1]
    exact s.fencedTo_retire_of_none fun e h => valid h.2.1

/-- SFENCE.VMA with V = 1 and HFENCE.VVMA (R656, R657). -/
theorem State.fenceGuest_fencedTo (s : State) (rs1 rs2 : RegIdx) :
    s.FencedTo (s.fenceGuest rs1 rs2).retire
      (fun e => e.kind = .vs ∧ e.vmid = s.vmid ∧ validAddr s.vsxlen s.vs.atp (s.fenceAddr s.vsxlen rs1) = true
        ∧ FenceSelects e (s.fenceAddr s.vsxlen rs1) (s.fenceSpace (s.asidBits s.vsxlen) rs2))
      false false := by
  rw [State.fenceGuest]
  by_cases valid : validAddr s.vsxlen s.vs.atp (s.fenceAddr s.vsxlen rs1) = true
  · rw [if_pos valid]
    refine State.fencedTo_retire (mem_filter_not_iff fun e => ?_) rfl
    rw [Bool.and_eq_true, Bool.and_eq_true, beq_iff_eq, beq_iff_eq, TcEntry.selected_iff, and_assoc]
    simp only [valid, true_and]
  · rw [if_neg valid]
    exact s.fencedTo_retire_of_none fun e h => valid h.2.2.1

/-- HFENCE.GVMA (R658): `x[rs1]` is the guest physical address divided by 4. -/
theorem State.fenceGpa_fencedTo (s : State) (rs1 rs2 : RegIdx) :
    s.FencedTo (s.fenceGpa rs1 rs2).retire
      (fun e => e.kind = .g ∧ (rs1 ≠ 0 → e.covers (4 * natOf s.xlen (s.readX rs1)) = true)
        ∧ (rs2 ≠ 0 → e.vmid = (s.src rs2).toNat % 2 ^ s.vmidBits))
      false (decide (rs1 = 0 ∧ rs2 = 0)) := by
  refine State.fencedTo_retire (mem_filter_not_iff fun e => ?_) ?_
  · have quarter : (zxTo s.xlen (s.src rs1)).toNat <<< 2 = 4 * natOf s.xlen (s.readX rs1) := by
      rw [State.src, zxTo_sxTo, Nat.shiftLeft_eq, Nat.mul_comm]
      rfl
    rw [Bool.and_eq_true, Bool.and_eq_true, beq_iff_eq, and_assoc, ← quarter, State.fenceSpace_eq, State.fenceAddr]
    refine and_congr_right' (and_congr ?_ ?_)
    · obtain all | named := eq_or_ne rs1 0
      · rw [if_pos all]
        exact iff_of_true rfl (absurd all)
      · rw [if_neg named]
        exact (imp_iff_right named).symm
    · obtain all | named := eq_or_ne rs2 0
      · rw [if_pos all]
        exact iff_of_true rfl (absurd all)
      · rw [if_neg named]
        exact beq_iff_eq.trans (imp_iff_right named).symm
  · rw [← s.fenceSel_all s.xlen s.vmidBits rs1 rs2 (fun a => a.toNat <<< 2)]
    rfl

/-! ## The instructions, where permitted -/

theorem State.ifSvinval_of_present {s : State} (h : s.cfg.svinval = true) (p : Permit) : s.ifSvinval p = p := if_pos h

section
variable {s : State} {rs1 rs2 : RegIdx} {i : Instr}

/-- SINVAL.VMA acts at once, as SFENCE.VMA (D50). -/
theorem exec_sfence (hi : i ∈ [Instr.sfenceVma rs1 rs2, .sinvalVma rs1 rs2])
    (svinval : i = .sinvalVma rs1 rs2 → s.cfg.svinval = true) (permitted : s.sfencePermit = .ok) :
    exec i s = .next (s.sfence rs1 rs2).retire := by
  simp only [List.mem_cons, List.not_mem_nil, or_false] at hi
  obtain rfl | rfl := hi
  · change execSfenceVma rs1 rs2 s = _
    rw [execSfenceVma, permitted, State.guarded_ok]
  · change execSinvalVma rs1 rs2 s = _
    rw [execSinvalVma, State.ifSvinval_of_present (svinval rfl), permitted, State.guarded_ok]

/-- HINVAL.GVMA acts at once, as HFENCE.GVMA (D50). -/
theorem exec_hfenceG (hi : i ∈ [Instr.hfenceGvma rs1 rs2, .hinvalGvma rs1 rs2])
    (svinval : i = .hinvalGvma rs1 rs2 → s.cfg.svinval = true) (permitted : s.hfenceGPermit = .ok) :
    exec i s = .next (s.fenceGpa rs1 rs2).retire := by
  simp only [List.mem_cons, List.not_mem_nil, or_false] at hi
  obtain rfl | rfl := hi
  · change execHfenceGvma rs1 rs2 s = _
    rw [execHfenceGvma, permitted, State.guarded_ok]
  · change execHinvalGvma rs1 rs2 s = _
    rw [execHinvalGvma, State.ifSvinval_of_present (svinval rfl), permitted, State.guarded_ok]

/-- Where SFENCE.VMA exists, the mode decides on it (R785). -/
theorem State.sfencePermit_eq_ok (hS : s.hasS = true)
    (paged : s.cfg.sfenceBareIllegal = false ∨ pagedAt s.cfg s.sxlen = true)
    (mode : s.priv = .machine ∨ (s.priv = .supervisor ∧ s.virt = false ∧ s.mstatus.tvm = false)
      ∨ (s.priv = .supervisor ∧ s.virt = true ∧ s.h.status.vtvm = false)) : s.sfencePermit = .ok := by
  have present : (!s.hasS || (s.cfg.sfenceBareIllegal && !s.pagedMode)) = false := by
    obtain bare | paged := paged
    · simp [hS, bare]
    · simp [State.pagedMode, hS, paged]
  rw [State.sfencePermit, present, if_neg Bool.false_ne_true]
  obtain hp | ⟨hp, hv, trap⟩ | ⟨hp, hv, trap⟩ := mode
  · simp [hp]
  · simp [hp, hv, trap]
  · simp [hp, hv, trap]

theorem State.hfenceGPermit_eq_ok (hH : s.hasH = true) (hv : s.virt = false)
    (mode : s.priv = .machine ∨ (s.priv = .supervisor ∧ s.mstatus.tvm = false)) : s.hfenceGPermit = .ok := by
  obtain hp | ⟨hp, tvm⟩ := mode
  · simp [State.hfenceGPermit, hH, hv, hp]
  · simp [State.hfenceGPermit, hH, hv, hp, tvm]

end

/-- Settles O45: a permitted instruction is its fence and then retires, and by V the fence is of one level or the other. -/
theorem sfenceVmaFences : Obligations.SfenceVmaFences := by
  unfold Obligations.SfenceVmaFences
  constructor
  · intro s rs1 rs2 hS paged hv mode addr asidLen space i hi svinval
    have permitted := State.sfencePermit_eq_ok hS paged (mode.imp_right fun h => .inl ⟨h.1, hv, h.2⟩)
    refine ⟨_, exec_sfence hi svinval permitted, ?_⟩
    have fenced := State.sfence_fencedTo hv rs1 rs2
    rw [State.fenceSpace_eq] at fenced
    exact fenced
  · intro s rs1 rs2 hS paged hv hp vtvm addr asidLen space i hi svinval
    have permitted := State.sfencePermit_eq_ok hS paged (.inr (.inr ⟨hp, hv, vtvm⟩))
    refine ⟨_, exec_sfence hi svinval permitted, ?_⟩
    have fenced := s.fenceGuest_fencedTo rs1 rs2
    rw [State.fenceSpace_eq] at fenced
    rw [State.sfence, if_pos hv]
    exact fenced

/-- Settles O47: a permitted instruction is the G-stage fence and then retires. -/
theorem hfenceGvmaFences : Obligations.HfenceGvmaFences := by
  unfold Obligations.HfenceGvmaFences
  intro s rs1 rs2 hH hv mode vmidLen i hi svinval
  exact ⟨_, exec_hfenceG hi svinval (State.hfenceGPermit_eq_ok hH hv mode), s.fenceGpa_fencedTo rs1 rs2⟩

end Sys2Proof.Machine
end

section
/-! The walk of one entry, where no translation is remembered: what an entry is to a walk, what one level makes of it,
and how a walk comes to the table of each level. The place of an entry is left open, as the G-stage may choose it. -/

namespace Sys2Proof.Machine

open Sys2Proof

/-! ## The fields of an entry (R554) -/

theorem bitsAt_eq_toNat_extractLsb' (w : Word) (lo n : Nat) : bitsAt w lo n = (w.extractLsb' lo n).toNat := by
  rw [bitsAt, BitVec.extractLsb'_toNat]

theorem bitsAt_eq_iff {w : Word} {lo n : Nat} (v : BitVec n) : bitsAt w lo n = v.toNat ↔ w.extractLsb' lo n = v := by
  rw [bitsAt_eq_toNat_extractLsb', BitVec.toNat_inj]

theorem ptePpn_eq_ppnOf (sc : Scheme) (p : Word) : ptePpn sc p = sc.ppnOf p := by
  unfold ptePpn Scheme.ppnOf
  split <;> simp [bitsAt, Nat.shiftRight_eq_div_pow]

theorem atpPpn_eq (xl : Xlen) (v : Word) : atpPpn xl v = v.toNat % 2 ^ (if xl = .x32 then 22 else 44) := by
  cases xl <;> exact bitsAt_zero v _

theorem Walk.entryAddr_eq_vpnAt (w : Walk) (level a : Nat) :
    a + vpnAt w.stage w.va level * w.stage.scheme.pteSize = w.entryAddr level a := by
  rw [Walk.entryAddr, vpnAt, levelShift, Nat.shiftRight_eq_div_pow]

theorem pteLeaf_eq_false_iff (p : Word) : pteLeaf p = false ↔ p.getLsbD 1 = false ∧ p.getLsbD 3 = false := by
  simp [pteLeaf, pteR, pteX]

/-! ## What an entry is to a walk (R552 steps 3 to 6) -/

theorem State.entryInvalid_iff (s : State) (st : Stage) (level : Nat) (p : Word) :
    s.EntryInvalid st level p ↔ (!pteV p || s.pteReserved st level p) = true := by
  have reserved : bitsAt p 54 7 = 0 ↔ p.extractLsb' 54 7 = 0#7 := bitsAt_eq_iff 0#7
  have napot : bitsAt p 10 4 = 8 ↔ p.extractLsb' 10 4 = 8#4 := bitsAt_eq_iff 8#4
  have pbmtZero : bitsAt p 61 2 = 0 ↔ p.extractLsb' 61 2 = 0#2 := bitsAt_eq_iff 0#2
  have pbmtThree : bitsAt p 61 2 = 3 ↔ p.extractLsb' 61 2 = 3#2 := bitsAt_eq_iff 3#2
  simp only [State.EntryInvalid, State.pteReserved, pteNapot, ptePbmt, pteV, pteR, pteW, pteX, pteU, pteA, pteD, pteN,
    pteLeaf, Bool.or_eq_true, Bool.and_eq_true, Bool.not_eq_true', bne_iff_ne, beq_iff_eq, ne_eq,
    ← Bool.not_eq_true, reserved, napot, pbmtZero, pbmtThree, or_assoc, and_assoc]
  refine or_congr_right (or_congr_right (or_congr
    (and_congr_right fun _ => and_congr_right fun _ => ?nonleaf)
    (and_congr_right fun _ => or_congr_right (or_congr_left (and_congr_right fun n => ?napotLeaf)))))
  case nonleaf => exact or_rotate.trans or_left_comm
  case napotLeaf => simp only [n, true_and]

theorem leafGrants_iff (st : Stage) (kind : AccKind) (hlvx : Bool) (p : Word) :
    LeafGrants st kind hlvx p ↔ leafPermits st kind hlvx p = true := by
  unfold LeafGrants leafPermits
  rw [Bool.and_eq_true]
  refine and_congr ?user ?access
  case user => cases st.priv <;> simp [pteU]
  case access =>
    cases kind with
    | fetch => rfl
    | store => rfl
    | load => cases hlvx <;> simp [pteR, pteX]

section
variable {s : State} {w : Walk} {level : Nat} {p : Word}

theorem State.classify_of_invalid (h : s.EntryInvalid w.stage level p) : s.classify w level p = .bad := by
  rw [State.classify, if_pos (s.entryInvalid_iff w.stage level p |>.mp h)]

theorem State.classify_pointer (h : ¬ s.EntryInvalid w.stage level p) (leaf : pteLeaf p = false) :
    s.classify w level p = .pointer := by
  rw [State.classify, if_neg (mt (s.entryInvalid_iff w.stage level p).mpr h), leaf]
  rfl

open Classical in
/-- A leaf is one for the walk when it grants the access and its superpage is aligned. -/
theorem State.classify_leaf (h : ¬ s.EntryInvalid w.stage level p) (leaf : pteLeaf p = true) (spec : w.spec = false) :
    s.classify w level p =
      if LeafGrants w.stage w.kind w.hlvx p
        ∧ w.stage.scheme.ppnOf p % 2 ^ (w.stage.scheme.vpnBits * level) = 0 then .leaf else .bad := by
  rw [State.classify, if_neg (mt (s.entryInvalid_iff w.stage level p).mpr h), leaf, spec, leafGrants_iff,
    ptePpn_eq_ppnOf]
  by_cases grants : leafPermits w.stage w.kind w.hlvx p <;> simp [grants]

end

/-! ## Where a leaf maps the address (R552 step 8, R580) -/

/-- A valid 8-byte entry with N set is a NAPOT leaf at level 0. -/
theorem State.napot_of_valid {s : State} {st : Stage} {level : Nat} {p : Word} (h : ¬ s.EntryInvalid st level p)
    (size : st.scheme.pteSize = 8) (n : p.getLsbD 63 = true) : level = 0 ∧ pteNapot p = true := by
  by_contra not
  refine h (.inr (.inr (.inr ⟨size, .inr (.inl ⟨n, fun ⟨_, _, bottom, ppn⟩ => not ⟨bottom, ?_⟩⟩)⟩)))
  rw [pteNapot, (bitsAt_eq_iff 8#4).mpr ppn, pteN, n]
  rfl

/-- With N set the low four bits of the PPN come from the address (R580). -/
theorem leafPpn_of_valid {s : State} {st : Stage} {level : Nat} {p : Word} (h : ¬ s.EntryInvalid st level p)
    (va : Nat) :
    leafPpn st.scheme p va =
      if st.scheme.pteSize = 8 ∧ p.getLsbD 63 = true then st.scheme.ppnOf p / 16 * 16 + va / 4096 % 16
      else st.scheme.ppnOf p := by
  have iff : (st.scheme.pteSize = 8 ∧ pteNapot p = true) ↔ (st.scheme.pteSize = 8 ∧ p.getLsbD 63 = true) :=
    and_congr_right fun size => ⟨fun n => (Bool.and_eq_true_iff.mp n).1, fun n => (s.napot_of_valid h size n).2⟩
  simp only [leafPpn, iff, ptePpn_eq_ppnOf, Nat.shiftRight_eq_div_pow]

theorem leafAddr_eq_mapped {s : State} {w : Walk} {level : Nat} {p : Word} (h : ¬ s.EntryInvalid w.stage level p)
    (aligned : w.stage.scheme.ppnOf p % 2 ^ (w.stage.scheme.vpnBits * level) = 0) :
    leafAddr w.stage.scheme level w.va p = (w.mapped level p).pa := by
  rw [leafAddr, leafPpn_of_valid h, Walk.mapped]
  by_cases napot : w.stage.scheme.pteSize = 8 ∧ p.getLsbD 63 = true
  · obtain ⟨rfl, -⟩ := s.napot_of_valid h napot.1 napot.2
    simp only [napot, levelShift, and_self, if_true, Nat.mul_zero, Nat.add_zero, Nat.shiftRight_zero, Nat.shiftLeft_eq]
    omega
  · have whole : w.stage.scheme.ppnOf p / 2 ^ (w.stage.scheme.vpnBits * level) * 2 ^ (w.stage.scheme.vpnBits * level)
        = w.stage.scheme.ppnOf p := Nat.div_mul_cancel (Nat.dvd_of_mod_eq_zero aligned)
    simp only [napot, levelShift, if_false, Nat.shiftRight_eq_div_pow, Nat.shiftLeft_eq, Nat.pow_add]
    rw [Nat.mul_comm (2 ^ 12), ← Nat.mul_assoc, whole]

theorem mapping_eq_mapped {s : State} {w : Walk} {level : Nat} {p : Word} (h : ¬ s.EntryInvalid w.stage level p)
    (aligned : w.stage.scheme.ppnOf p % 2 ^ (w.stage.scheme.vpnBits * level) = 0) :
    { pa := leafAddr w.stage.scheme level w.va p, pbmt := ptePbmt p : Mapping } = w.mapped level p := by
  rw [leafAddr_eq_mapped h aligned, ptePbmt, bitsAt_eq_toNat_extractLsb']
  rfl

/-! ## One entry, read from memory -/

theorem State.drawPte_of_noCache {s : State} (h : s.noCache) (st : Stage) (q va shift : Nat) :
    s.drawPte st q va shift = (none, s) := by
  simp [State.drawPte, h.1]

theorem State.fillTc_of_noCache {s : State} (h : s.noCache) (st : Stage) (q va shift : Nat) (glob : Bool) (p : Word)
    (spec : Bool) : s.fillTc st q va shift glob p spec = s := by
  simp [State.fillTc, h.2]

/-- A walk that is not speculative does not look at the PBMT of the page an entry is in (R465). -/
theorem State.ptwAllowed_eq_entryAllowed (s : State) {w : Walk} (spec : w.spec = false) (m : Mapping) (isWrite : Bool) :
    s.ptwAllowed w m isWrite = s.entryAllowed w m.pa isWrite := by
  simp [State.entryAllowed, State.ptwAllowed, spec]

/-- What a walk answers for the leaf at `pa`, read at `level`, that grants the access: by its A and D bits and the
scheme of their update (R562). -/
def State.leafAnswer (s : State) (w : Walk) (level pa : Nat) : Res Mapping :=
  let p := s.readPte w.stage pa
  if p &&& adBits w.kind = adBits w.kind then .ok (w.mapped level p) s
  else if s.cfg.adUpdate = .fault then .exn w.pf s
  else if s.entryAllowed w pa true = false then .exn w.af s
  else .ok (w.mapped level p)
    (s.writePhysN w.stage.bigEndian pa w.stage.scheme.pteSize (p ||| adBits w.kind))

/-- `toPhys` puts the entry at `q` at the physical address `pa`, for a read or an update, and changes nothing. -/
def EntryPlaced (toPhys : State → Nat → Bool → Res Mapping) (s : State) (q : Nat) (isWrite : Bool) (pa : Nat) :
    Prop :=
  ∃ pbmt, toPhys s q isWrite = .ok { pa := pa, pbmt := pbmt } s

section
variable {s : State} {w : Walk} {toPhys : State → Nat → Bool → Res Mapping} {level q pa : Nat} {glob : Bool}
  {p : Word}

theorem walkPass_of_noCache (cold : s.noCache) (spec : w.spec = false) (read : EntryPlaced toPhys s q false pa)
    (again : Mapping → State → Res LevelEnd) :
    walkPass w toPhys level q glob again s =
      if s.entryAllowed w pa false = true then
        walkOn w level glob (s.readPte w.stage pa) (walkUpdate w toPhys level q again (s.readPte w.stage pa)) s
      else .exn w.af s := by
  obtain ⟨pbmt, read⟩ := read
  rw [walkPass, State.drawPte_of_noCache cold]
  dsimp only
  rw [read, Res.bind, walkRead, s.ptwAllowed_eq_entryAllowed spec]
  dsimp only
  rw [State.fillTc_of_noCache cold]
  cases s.entryAllowed w pa false <;> rfl

/-- The compare of a hardware update succeeds, as the entry was read just before (R562). -/
theorem walkUpdate_of_placed (spec : w.spec = false) (place : EntryPlaced toPhys s q true pa)
    (again : Mapping → State → Res LevelEnd) :
    walkUpdate w toPhys level q again (s.readPte w.stage pa) s =
      if s.entryAllowed w pa true = false then .exn w.af s
      else writeBack w level pa (s.readPte w.stage pa) s := by
  obtain ⟨pbmt, place⟩ := place
  rw [walkUpdate, place, Res.bind, s.ptwAllowed_eq_entryAllowed spec]
  cases s.entryAllowed w pa true <;> simp

/-! ## What one level makes of its entry (R552) -/

theorem walkOn_bad (h : s.classify w level p = .bad) (update : State → Res LevelEnd) :
    walkOn w level glob p update s = .exn w.pf s := by
  rw [walkOn, h]

theorem walkOn_pointer (h : s.classify w level p = .pointer) (update : State → Res LevelEnd) :
    walkOn w level glob p update s = .ok (.pointer (w.stage.scheme.ppnOf p * 4096) (glob || pteG p)) s := by
  rw [walkOn, h, ptePpn_eq_ppnOf]

theorem walkOn_leaf (spec : w.spec = false) (h : s.classify w level p = .leaf) (update : State → Res LevelEnd) :
    walkOn w level glob p update s =
      if p &&& adBits w.kind = adBits w.kind then
        .ok (.found { pa := leafAddr w.stage.scheme level w.va p, pbmt := ptePbmt p }) s
      else if s.cfg.adUpdate = .fault then .exn w.pf s else update s := by
  rw [walkOn, h, spec]
  cases s.cfg.adUpdate <;> rfl

/-! ## From level to level -/

theorem walkFrom_of_exn {a : Nat} {e : Excn} {t : State}
    (h : walkEntry w toPhys level (w.entryAddr level a) glob s = .exn e t) :
    walkFrom w toPhys level a glob s = .exn e t := by
  cases level <;> rw [walkFrom, Walk.entryAddr_eq_vpnAt, h, Res.bind]

theorem walkFrom_of_found {a : Nat} {m : Mapping} {t : State}
    (h : walkEntry w toPhys level (w.entryAddr level a) glob s = .ok (.found m) t) :
    walkFrom w toPhys level a glob s = .ok m t := by
  cases level <;> rw [walkFrom, Walk.entryAddr_eq_vpnAt, h, Res.bind]

theorem walkFrom_of_answer {a : Nat} {r : Res Mapping}
    (h : walkEntry w toPhys level (w.entryAddr level a) glob s = r.bind fun m t => .ok (.found m) t) :
    walkFrom w toPhys level a glob s = r := by
  cases r with
  | ok m t => exact walkFrom_of_found h
  | exn e t => exact walkFrom_of_exn h

theorem walkFrom_zero_of_pointer {a table : Nat} {g : Bool} {t : State}
    (h : walkEntry w toPhys 0 (w.entryAddr 0 a) glob s = .ok (.pointer table g) t) :
    walkFrom w toPhys 0 a glob s = .exn w.pf t := by
  rw [walkFrom, Walk.entryAddr_eq_vpnAt, h, Res.bind]

theorem walkFrom_succ_of_pointer {a table : Nat} {g : Bool} {t : State}
    (h : walkEntry w toPhys (level + 1) (w.entryAddr (level + 1) a) glob s = .ok (.pointer table g) t) :
    walkFrom w toPhys (level + 1) a glob s = walkFrom w toPhys level table g t := by
  rw [walkFrom, Walk.entryAddr_eq_vpnAt, h, Res.bind]

theorem walkEntry_of_denied (cold : s.noCache) (spec : w.spec = false) (read : EntryPlaced toPhys s q false pa)
    (denied : s.entryAllowed w pa false = false) : walkEntry w toPhys level q glob s = .exn w.af s := by
  rw [walkEntry, walkPass_of_noCache cold spec read, denied, if_neg Bool.false_ne_true]

section
variable (cold : s.noCache) (spec : w.spec = false) (read : EntryPlaced toPhys s q false pa)
  (allowed : s.entryAllowed w pa false = true)
include cold spec read allowed

/-- An entry that may be read is one pass of steps 3 to 8 on its value. -/
theorem walkEntry_of_allowed : ∃ again, walkEntry w toPhys level q glob s =
    walkOn w level glob (s.readPte w.stage pa) (walkUpdate w toPhys level q again (s.readPte w.stage pa)) s :=
  ⟨_, (walkPass_of_noCache cold spec read _).trans (if_pos allowed)⟩

theorem walkEntry_of_bad (bad : s.classify w level (s.readPte w.stage pa) = .bad) :
    walkEntry w toPhys level q glob s = .exn w.pf s := by
  obtain ⟨again, entry⟩ := walkEntry_of_allowed (level := level) (glob := glob) cold spec read allowed
  rw [entry, walkOn_bad bad]

theorem walkEntry_of_pointer (pointer : s.classify w level (s.readPte w.stage pa) = .pointer) :
    walkEntry w toPhys level q glob s =
      .ok (.pointer (w.stage.scheme.ppnOf (s.readPte w.stage pa) * 4096) (glob || pteG (s.readPte w.stage pa))) s := by
  obtain ⟨again, entry⟩ := walkEntry_of_allowed (level := level) (glob := glob) cold spec read allowed
  rw [entry, walkOn_pointer pointer]

/-- A valid leaf that grants the access translates it, with its A and D bits set (R552 steps 7 and 8, R562). -/
theorem walkEntry_of_leaf (valid : ¬ s.EntryInvalid w.stage level (s.readPte w.stage pa))
    (leaf : pteLeaf (s.readPte w.stage pa) = true)
    (good : LeafGrants w.stage w.kind w.hlvx (s.readPte w.stage pa)
      ∧ w.stage.scheme.ppnOf (s.readPte w.stage pa) % 2 ^ (w.stage.scheme.vpnBits * level) = 0)
    (update : s.cfg.adUpdate = .hardware → s.readPte w.stage pa &&& adBits w.kind ≠ adBits w.kind →
      EntryPlaced toPhys s q true pa) :
    walkEntry w toPhys level q glob s = (s.leafAnswer w level pa).bind fun m t => .ok (.found m) t := by
  obtain ⟨again, entry⟩ := walkEntry_of_allowed (level := level) (glob := glob) cold spec read allowed
  have isLeaf : s.classify w level (s.readPte w.stage pa) = .leaf := by
    rw [State.classify_leaf valid leaf spec, if_pos good]
  rw [entry, walkOn_leaf spec isLeaf, mapping_eq_mapped valid good.2, State.leafAnswer]
  by_cases adSet : s.readPte w.stage pa &&& adBits w.kind = adBits w.kind
  · rw [if_pos adSet, if_pos adSet, Res.bind]
  · rw [if_neg adSet, if_neg adSet]
    cases scheme : s.cfg.adUpdate with
    | fault => rfl
    | hardware =>
      rw [if_neg (by decide), if_neg (by decide), walkUpdate_of_placed spec (update scheme adSet), writeBack,
        mapping_eq_mapped valid good.2]
      cases s.entryAllowed w pa true <;> rfl

end

/-- What the entry at a table makes of a walk that is there (R552). -/
theorem walkFrom_ends {a : Nat} (cold : s.noCache) (spec : w.spec = false)
    (read : EntryPlaced toPhys s (w.entryAddr level a) false pa)
    (update : s.cfg.adUpdate = .hardware → s.readPte w.stage pa &&& adBits w.kind ≠ adBits w.kind →
      EntryPlaced toPhys s (w.entryAddr level a) true pa) :
    s.WalkEnds w level pa (s.readPte w.stage pa) id (walkFrom w toPhys level a glob s) := by
  refine ⟨fun denied => walkFrom_of_exn (walkEntry_of_denied cold spec read denied),
    fun allowed => ⟨?fault, ?leaf⟩⟩
  case fault =>
    intro faults
    by_cases valid : ¬ s.EntryInvalid w.stage level (s.readPte w.stage pa)
    case neg =>
      exact walkFrom_of_exn (walkEntry_of_bad cold spec read allowed (State.classify_of_invalid (not_not.mp valid)))
    obtain invalid | ⟨noLeaf, rfl⟩ | ⟨leaf, denied⟩ := faults
    · exact absurd invalid valid
    · exact walkFrom_zero_of_pointer
        (walkEntry_of_pointer cold spec read allowed (State.classify_pointer valid noLeaf))
    · refine walkFrom_of_exn (walkEntry_of_bad cold spec read allowed ?_)
      rw [State.classify_leaf valid leaf spec, if_neg denied]
  case leaf =>
    intro valid leaf good
    exact walkFrom_of_answer (walkEntry_of_leaf cold spec read allowed valid leaf good update)

/-- A walk at a table whose entry is a pointer goes on at the table below (R552 step 4). -/
theorem walkFrom_down {a : Nat} (cold : s.noCache) (spec : w.spec = false)
    (read : EntryPlaced toPhys s (w.entryAddr (level + 1) a) false pa) (allowed : s.entryAllowed w pa false = true)
    (valid : ¬ s.EntryInvalid w.stage (level + 1) (s.readPte w.stage pa))
    (noR : (s.readPte w.stage pa).getLsbD 1 = false) (noX : (s.readPte w.stage pa).getLsbD 3 = false) :
    walkFrom w toPhys (level + 1) a glob s =
      walkFrom w toPhys level (w.stage.scheme.ppnOf (s.readPte w.stage pa) * 4096)
        (glob || pteG (s.readPte w.stage pa)) s :=
  walkFrom_succ_of_pointer (walkEntry_of_pointer cold spec read allowed
    (State.classify_pointer valid ((pteLeaf_eq_false_iff _).mpr ⟨noR, noX⟩)))

end

/-- The end of a walk, its translation answered as another value. -/
theorem State.WalkEnds.map {α : Type} {s : State} {w : Walk} {level q : Nat} {p : Word} {r : Res Mapping}
    (h : s.WalkEnds w level q p id r) (f : Mapping → α) :
    s.WalkEnds w level q p f (r.bind fun m t => .ok (f m) t) := by
  obtain ⟨denied, allowed⟩ := h
  refine ⟨fun no => ?_, fun yes => ⟨fun fault => ?_, fun valid leaf good => ?_⟩⟩
  · rw [denied no, Res.bind]
  · rw [(allowed yes).1 fault, Res.bind]
  · rw [(allowed yes).2 valid leaf good]
    split_ifs <;> rfl

end Sys2Proof.Machine
end

section
/-! The walks of `satp` and of `hgatp`, whose entries are at physical addresses: translation as a walk from the root,
the tables a walk comes to, and what the entry there makes of the access. -/

namespace Sys2Proof.Machine

open Sys2Proof

/-- Where a walk whose entries are at physical addresses finds them (R552 step 2). -/
def atPhysical (s : State) (q : Nat) (_ : Bool) : Res Mapping := .ok { pa := q, pbmt := 0 } s

theorem entryPlaced_atPhysical (s : State) (q : Nat) (isWrite : Bool) : EntryPlaced atPhysical s q isWrite q :=
  ⟨0, rfl⟩

/-- The walk from the root is at each table it comes to. -/
theorem State.WalkReaches.walkRoot_eq {s : State} {w : Walk} {level a : Nat} (cold : s.noCache) (spec : w.spec = false)
    (h : s.WalkReaches w level a) : ∃ glob, walkRoot w atPhysical s = walkFrom w atPhysical level a glob s := by
  induction h with
  | root => exact ⟨false, rfl⟩
  | down level a _ allowed valid noR noX ih =>
    obtain ⟨glob, ih⟩ := ih
    exact ⟨_, ih.trans (walkFrom_down cold spec (entryPlaced_atPhysical s _ _) allowed valid noR noX)⟩

/-- What the entry at a table that a walk comes to makes of the access. -/
theorem State.WalkReaches.walkRoot_ends {s : State} {w : Walk} {level a : Nat} (cold : s.noCache)
    (spec : w.spec = false) (h : s.WalkReaches w level a) :
    s.WalkEnds w level (w.entryAddr level a) (s.readPte w.stage (w.entryAddr level a)) id
      (walkRoot w atPhysical s) := by
  obtain ⟨glob, root⟩ := h.walkRoot_eq cold spec
  rw [root]
  exact walkFrom_ends cold spec (entryPlaced_atPhysical s _ _) fun _ _ => entryPlaced_atPhysical s _ _

theorem State.translate1_eq_walkRoot {s : State} {sc : Scheme} {o : Orig} (scheme : s.hsScheme = some sc)
    (valid : canonical sc o.va = true) (kind : AccKind) (p : Priv) :
    s.translate1 kind false p o false = (walkRoot (s.satpWalk sc kind p o) atPhysical s).bind fun m t =>
      .ok { pa := m.pa, gPbmt := 0, sPbmt := m.pbmt } t := by
  rw [State.translate1, scheme]
  dsimp only
  rw [valid, State.hsStage, atpPpn_eq]
  rfl

theorem State.gTranslate_eq_walkRoot {s : State} {sc : Scheme} {gpa : Nat}
    (scheme : schemeOf s.sxlen s.h.gatp = some sc) (narrow : gpa < 2 ^ (sc.vaBits + 2)) (kind : AccKind)
    (hlvx : Bool) (implicit : Option Bool) (o : Orig) :
    s.gTranslate gpa kind hlvx implicit o false = walkRoot (s.hgatpWalk sc gpa kind hlvx implicit o) atPhysical s := by
  rw [State.gTranslate, scheme]
  dsimp only
  rw [if_neg (Nat.not_le.mpr narrow), State.gStage, atpPpn_eq]
  rfl

/-- Settles O58: both translations are walks from the root, and at a table they come to they end as its entry says. -/
theorem pageTableWalk : Obligations.PageTableWalk := by
  unfold Obligations.PageTableWalk
  constructor
  · intro s sc kind p o level a cold scheme valid w reached
    rw [State.translate1_eq_walkRoot scheme valid]
    exact (reached.walkRoot_ends cold rfl).map _
  · intro s sc gpa kind hlvx implicit o level a cold scheme narrow w reached
    rw [State.gTranslate_eq_walkRoot scheme narrow]
    exact reached.walkRoot_ends cold rfl

end Sys2Proof.Machine
end

section
/-! The walk of `vsatp`, whose entries the G-stage places, two-stage translation, and what a trap for a guest-page fault
reports. -/

namespace Sys2Proof.Machine

open Sys2Proof

/-! ## Entries that the G-stage places (R643) -/

/-- Where a VS-stage walk finds its entries: at the places the G-stage gives their guest physical addresses, by implicit
loads and stores (R643). -/
def placedByGStage (o : Orig) (s : State) (q : Nat) (isWrite : Bool) : Res Mapping :=
  s.gTranslate q (if isWrite then .store else .load) false (some isWrite) o false

theorem State.EntryAt.placed {s : State} {o : Orig} {q pa : Nat} {isWrite : Bool} (h : s.EntryAt o q isWrite pa) :
    EntryPlaced (placedByGStage o) s q isWrite pa := h

/-- The VS-stage walk from the root is at each table it comes to. -/
theorem State.GuestWalkReaches.walkRoot_eq {s : State} {w : Walk} {o : Orig} {level a : Nat} (cold : s.noCache)
    (spec : w.spec = false) (h : s.GuestWalkReaches w o level a) :
    ∃ glob, walkRoot w (placedByGStage o) s = walkFrom w (placedByGStage o) level a glob s := by
  induction h with
  | root => exact ⟨false, rfl⟩
  | down level a pa _ read allowed valid noR noX ih =>
    obtain ⟨glob, ih⟩ := ih
    exact ⟨_, ih.trans (walkFrom_down cold spec read.placed allowed valid noR noX)⟩

/-- An entry that has no place ends the walk, whether or not a read of it would be remembered. -/
theorem walkFrom_of_unplaced {s t : State} {w : Walk} {toPhys : State → Nat → Bool → Res Mapping} {level a : Nat}
    {glob : Bool} {e : Excn} (empty : s.tc = []) (read : toPhys s (w.entryAddr level a) false = .exn e t) :
    walkFrom w toPhys level a glob s = .exn e t := by
  have undrawn : ∀ shift, s.drawPte w.stage (w.entryAddr level a) w.va shift = (none, s) := by
    simp [State.drawPte, empty]
  apply walkFrom_of_exn
  rw [walkEntry, walkPass, undrawn]
  dsimp only
  rw [read, Res.bind]

/-! ## The stages, alone and composed (R630) -/

section
variable {s : State}

theorem State.gTranslate_of_bare (bare : schemeOf s.sxlen s.h.gatp = none) (gpa : Nat) (kind : AccKind) (hlvx : Bool)
    (implicit : Option Bool) (o : Orig) (spec : Bool) :
    s.gTranslate gpa kind hlvx implicit o spec = .ok { pa := gpa, pbmt := 0 } s := by
  rw [State.gTranslate, bare]

/-- A guest physical address with a bit set above the two extra ones of the scheme faults, before any walk (R633). -/
theorem State.gTranslate_of_wide {g : Scheme} {gpa : Nat} (scheme : schemeOf s.sxlen s.h.gatp = some g)
    (wide : 2 ^ (g.vaBits + 2) ≤ gpa) (kind : AccKind) (hlvx : Bool) (implicit : Option Bool) (o : Orig)
    (spec : Bool) : s.gTranslate gpa kind hlvx implicit o spec = .exn (o.guestFault gpa implicit) s := by
  rw [State.gTranslate, scheme]
  dsimp only
  rw [if_pos wide]

theorem State.vsTranslate_of_bare (bare : schemeOf s.vsxlen s.vs.atp = none) (kind : AccKind) (hlvx : Bool) (p : Priv)
    (o : Orig) (spec : Bool) : s.vsTranslate kind hlvx p o spec = .ok { pa := o.va.toNat, pbmt := 0 } s := by
  rw [State.vsTranslate, bare]

theorem State.vsTranslate_of_not_canonical {sc : Scheme} {o : Orig} (scheme : schemeOf s.vsxlen s.vs.atp = some sc)
    (invalid : canonical sc o.va = false) (kind : AccKind) (hlvx : Bool) (p : Priv) (spec : Bool) :
    s.vsTranslate kind hlvx p o spec = .exn o.pageFault s := by
  rw [State.vsTranslate, scheme]
  dsimp only
  rw [invalid]
  rfl

theorem State.vsTranslate_eq_walkRoot {sc : Scheme} {o : Orig} (scheme : schemeOf s.vsxlen s.vs.atp = some sc)
    (valid : canonical sc o.va = true) (kind : AccKind) (hlvx : Bool) (p : Priv) :
    s.vsTranslate kind hlvx p o false = walkRoot (s.vsatpWalk sc kind hlvx p o) (placedByGStage o) s := by
  rw [State.vsTranslate, scheme]
  dsimp only
  rw [valid, State.vsStage, atpPpn_eq]
  rfl

theorem State.translate2_of_vsTranslate_exn {t : State} {e : Excn} {kind : AccKind} {hlvx : Bool} {p : Priv}
    {o : Orig} {spec : Bool} (h : s.vsTranslate kind hlvx p o spec = .exn e t) :
    s.translate2 kind hlvx p o spec = .exn e t := by
  rw [State.translate2, h, Res.bind]

theorem State.translate2_of_vsTranslate_ok {t : State} {m : Mapping} {kind : AccKind} {hlvx : Bool} {p : Priv}
    {o : Orig} {spec : Bool} (h : s.vsTranslate kind hlvx p o spec = .ok m t) :
    s.translate2 kind hlvx p o spec = (t.gTranslate m.pa kind hlvx none o spec).bind fun g u =>
      .ok { pa := g.pa, gPbmt := g.pbmt, sPbmt := m.pbmt } u := by
  rw [State.translate2, h, Res.bind]

/-! ## The VS-stage walk, where no translation is remembered -/

section
variable {sc : Scheme} {kind : AccKind} {hlvx : Bool} {p : Priv} {o : Orig} {w : Walk} {level a : Nat}
  (cold : s.noCache) (scheme : schemeOf s.vsxlen s.vs.atp = some sc) (valid : canonical sc o.va = true)
  (walk : w = s.vsatpWalk sc kind hlvx p o) (reached : s.GuestWalkReaches w o level a)
include cold scheme valid walk reached

/-- A fault of the G-stage on the read of an entry is the answer of the walk (R643, R648). -/
theorem State.vsTranslate_of_unplaced {e : Excn} {t : State}
    (read : s.gTranslate (w.entryAddr level a) .load false (some false) o false = .exn e t) :
    s.vsTranslate kind hlvx p o false = .exn e t := by
  subst walk
  obtain ⟨glob, root⟩ := reached.walkRoot_eq cold rfl
  rw [State.vsTranslate_eq_walkRoot scheme valid, root]
  exact walkFrom_of_unplaced cold.1 read

/-- What the entry at a table that the walk comes to makes of the access (R552, R643). -/
theorem State.vsTranslate_ends {pa : Nat} (read : s.EntryAt o (w.entryAddr level a) false pa)
    (update : s.cfg.adUpdate = .hardware → s.readPte w.stage pa &&& adBits w.kind ≠ adBits w.kind →
      s.EntryAt o (w.entryAddr level a) true pa) :
    s.WalkEnds w level pa (s.readPte w.stage pa) id (s.vsTranslate kind hlvx p o false) := by
  subst walk
  obtain ⟨glob, root⟩ := reached.walkRoot_eq cold rfl
  rw [State.vsTranslate_eq_walkRoot scheme valid, root]
  exact walkFrom_ends cold rfl read.placed update

end

/-! ## The root entry of the VS-stage -/

theorem eq_sv32_of_schemeOf {xl : Xlen} {v : Word} {sc : Scheme} (h : schemeOf xl v = some sc)
    (size : sc.pteSize = 4) : sc = sv32 := by
  unfold schemeOf at h
  split at h
  case h_1 => exact (Option.some.inj h).symm
  case h_5 => exact absurd h nofun
  all_goals
    obtain rfl := Option.some.inj h
    exact absurd size (by decide)

/-- The bits above 32, which Sv32 drops, are in no index of its root. -/
theorem rootIndex_vaOf {xl : Xlen} {v : Word} {sc : Scheme} (h : schemeOf xl v = some sc) (va : Word) :
    sc.vaOf va / 2 ^ (12 + sc.vpnBits * (sc.levels - 1)) % 2 ^ sc.vpnBits
      = va.toNat / 2 ^ (12 + sc.vpnBits * (sc.levels - 1)) % 2 ^ sc.vpnBits := by
  by_cases size : sc.pteSize = 4
  · obtain rfl := eq_sv32_of_schemeOf h size
    simp only [Scheme.vaOf, sv32, if_true]
    omega
  · rw [Scheme.vaOf, if_neg size]

theorem State.entryAddr_eq_vsRootEntry {sc : Scheme} (scheme : schemeOf s.vsxlen s.vs.atp = some sc)
    (kind : AccKind) (hlvx : Bool) (p : Priv) (o : Orig) :
    (s.vsatpWalk sc kind hlvx p o).entryAddr (sc.levels - 1) (s.vsatpWalk sc kind hlvx p o).stage.root
      = s.vsRootEntry sc o.va := by
  dsimp only [Walk.entryAddr, State.vsatpWalk, State.vsRootEntry]
  rw [ite_self, Nat.add_zero, rootIndex_vaOf scheme]

/-- A root entry beyond the reach of the G-stage is a guest-page fault of the access that reports it (R633, R648). -/
theorem State.vsTranslate_of_wideRoot {sc g : Scheme} {o : Orig} (empty : s.tc = [])
    (vsScheme : schemeOf s.vsxlen s.vs.atp = some sc) (gScheme : schemeOf s.sxlen s.h.gatp = some g)
    (valid : canonical sc o.va = true) (wide : 2 ^ (g.vaBits + 2) ≤ s.vsRootEntry sc o.va) (kind : AccKind)
    (hlvx : Bool) (p : Priv) :
    s.vsTranslate kind hlvx p o false = .exn (o.guestFault (s.vsRootEntry sc o.va) (some false)) s := by
  rw [State.vsTranslate_eq_walkRoot vsScheme valid]
  apply walkFrom_of_unplaced empty
  rw [← State.entryAddr_eq_vsRootEntry vsScheme kind hlvx p o] at wide ⊢
  exact State.gTranslate_of_wide gScheme wide .load false (some false) o false

end

/-! ## The trap for a guest-page fault (R371 to R373, R936) -/

/-- The exception codes of guest-page faults (R860). -/
def ExcCode.IsGuestPage (c : ExcCode) : Prop := c = .instrGuest ∨ c = .loadGuest ∨ c = .storeGuest

/-- Guest-page faults cannot be delegated to VS-mode (R343, Table 8.2). -/
theorem State.hedeleg_of_isGuestPage (s : State) {c : ExcCode} (h : c.IsGuestPage) :
    s.hedeleg.getLsbD c.code = false := by
  have unwritable : s.hedelegMask.getLsbD c.code = false := by
    rw [State.hedelegMask]
    split_ifs
    · obtain rfl | rfl | rfl := h <;> simp [ExcCode.code, -BitVec.getLsbD_eq_getElem, flag_getLsbD]
    · exact BitVec.getLsbD_zero
  rw [State.hedeleg, BitVec.getLsbD_and, unwritable, Bool.and_false]

theorem State.exceptionTarget_of_isGuestPage (s : State) {c : ExcCode} (h : c.IsGuestPage) :
    s.exceptionTarget c = .m ∨ s.exceptionTarget c = .s := by
  obtain toM | ⟨toS, -⟩ | ⟨-, -, -, -, -, -, delegated⟩ := s.exceptionTarget_cases c
  · exact .inl toM
  · exact .inr toS
  · rw [s.hedeleg_of_isGuestPage h] at delegated
    exact absurd delegated Bool.false_ne_true

/-- The guest physical address of a guest-page fault as it is shown: shifted right by 2, or 0 (R371 to R373). -/
theorem State.tval2Of_of_isGuestPage (s : State) {e : Excn} (h : e.code.IsGuestPage) :
    s.tval2Of e = if s.cfg.xtval2Zero = true ∨ 2 ^ s.cfg.htvalBits ≤ e.gpa / 4 then 0
      else BitVec.ofNat 64 (e.gpa / 4) := by
  have shifted : e.gpa >>> 2 = e.gpa / 4 := Nat.shiftRight_eq_div_pow e.gpa 2
  obtain code | code | code := h <;> simp [State.tval2Of, code, shifted]

theorem pseudoInstr_eq (xl : Xlen) (isWrite : Bool) :
    pseudoInstr xl isWrite =
      if xl = .x32 then (if isWrite then 0x2020 else 0x2000) else (if isWrite then 0x3020 else 0x3000) := by
  cases xl <;> cases isWrite <;> rfl

theorem State.tinstOf_of_implicit (s : State) (w : BitVec 32) {e : Excn} {isWrite : Bool}
    (h : e.implicit = some isWrite) :
    s.tinstOf w e = if s.tval2Of e = 0 then 0 else pseudoInstr s.vsxlen isWrite := by
  rw [State.tinstOf, h]

/-- The second trap value and the trap instruction of an exception whose handler is in M-mode or HS-mode stand in the
registers of that mode (R880). -/
theorem State.takeException_reports (s : State) (w : BitVec 32) (e : Excn) (hasH : s.hasH = true)
    (target : s.exceptionTarget e.code = .m ∨ s.exceptionTarget e.code = .s) :
    (s.takeException w e).virt = false
      ∧ ((s.takeException w e).priv = .machine →
          (s.takeException w e).m.tval2 = zxTo s.mxlen (s.tval2Of e)
            ∧ (s.takeException w e).m.tinst = s.tinstOf w e)
      ∧ ((s.takeException w e).priv ≠ .machine →
          (s.takeException w e).h.tval = zxTo s.sxlen (s.tval2Of e)
            ∧ (s.takeException w e).h.tinst = s.tinstOf w e) := by
  obtain target | target := target
  · have taken : s.takeException w e = s.enterM (s.trapInfo w e) := by rw [State.takeException, target]; rfl
    simp [taken, State.enterM, State.trapInfo, hasH]
  · have taken : s.takeException w e = s.enterS (s.trapInfo w e) := by rw [State.takeException, target]; rfl
    simp [taken, State.enterS, State.trapInfo, hasH]

/-- Settles O59: the stages compose, the G-stage places the entries of the VS-stage walk, and a guest-page fault is
never taken in VS-mode, so that a trap for it writes what it reports. -/
theorem guestPageFaults : Obligations.GuestPageFaults := by
  unfold Obligations.GuestPageFaults
  refine ⟨?bareVs, ?walk, ?wide, ?wideRoot, ?trap⟩
  case bareVs =>
    intro s kind hlvx p o bareVs
    rw [State.translate2_of_vsTranslate_ok (State.vsTranslate_of_bare bareVs kind hlvx p o false)]
    constructor
    · intro bareG
      rw [State.gTranslate_of_bare bareG, Res.bind]
    · cases s.gTranslate o.va.toNat kind hlvx none o false <;> rfl
  case walk =>
    intro s kind hlvx p o sc level a cold scheme valid w q first reached
    refine ⟨fun e t read => State.vsTranslate_of_unplaced cold scheme valid rfl reached read,
      fun pa read update => State.vsTranslate_ends cold scheme valid rfl reached read update, ?_⟩
    cases answer : first with
    | exn e t => exact State.translate2_of_vsTranslate_exn answer
    | ok m t =>
      rw [State.translate2_of_vsTranslate_ok answer]
      dsimp only
      cases t.gTranslate m.pa kind hlvx none o false <;> rfl
  case wide =>
    intro s kind access hlvx gpa implicit o g scheme wide
    refine ⟨_, State.gTranslate_of_wide scheme wide kind hlvx implicit _ false, ?_, rfl, rfl, rfl, rfl⟩
    cases access <;> rfl
  case wideRoot =>
    intro s kind hlvx p o sc g empty vsScheme gScheme
    constructor
    · intro invalid
      exact State.translate2_of_vsTranslate_exn (State.vsTranslate_of_not_canonical vsScheme invalid kind hlvx p false)
    · intro valid wide
      exact ⟨_, State.translate2_of_vsTranslate_exn
        (State.vsTranslate_of_wideRoot empty vsScheme gScheme valid wide kind hlvx p), rfl, rfl, rfl, rfl⟩
  case trap =>
    intro s w e hasH guestPage t shown pseudo
    have shownEq : s.tval2Of e = shown := s.tval2Of_of_isGuestPage guestPage
    have tinstEq : ∀ b, e.implicit = some b → s.tinstOf w e = if shown = 0 then 0 else pseudo b := by
      intro b implicit
      rw [s.tinstOf_of_implicit w implicit, shownEq, pseudoInstr_eq]
    obtain ⟨virt, inM, inS⟩ := s.takeException_reports w e hasH (s.exceptionTarget_of_isGuestPage guestPage)
    rw [shownEq] at inM inS
    exact ⟨virt, fun m => ⟨(inM m).1, fun b implicit => (inM m).2.trans (tinstEq b implicit)⟩,
      fun notM => ⟨(inS notM).1, fun b implicit => (inS notM).2.trans (tinstEq b implicit)⟩⟩

end Sys2Proof.Machine
end

section
/-! Where the fences do not execute: each asks a permission before it acts, the Svinval ones after asking for their
extension, and the exception it then takes is the one the permission names. -/

namespace Sys2Proof.Machine

open Sys2Proof

/-! ## What a fence asks -/

/-- The fences that exist only with Svinval (R688). -/
def needsSvinval : Instr → Bool
  | .sinvalVma _ _ | .hinvalVvma _ _ | .hinvalGvma _ _ | .sfenceWInval | .sfenceInvalIr => true
  | _ => false

/-- Beyond its extension, `i` asks the permission `p` and does nothing without it. -/
def State.Asks (s : State) (i : Instr) (p : Permit) : Prop :=
  ∃ act, exec i s = s.guarded (encode i) (if needsSvinval i then s.ifSvinval p else p) act

theorem State.ifSvinval_of_absent {s : State} (h : s.cfg.svinval = false) (p : Permit) : s.ifSvinval p = .illegal := by
  simp [State.ifSvinval, h]

theorem State.ifSvinval_illegal (s : State) : s.ifSvinval .illegal = .illegal := ite_self _

section
variable {s : State} {i : Instr} {rs1 rs2 : RegIdx}

theorem State.Asks.exec_of_absent {p : Permit} (asks : s.Asks i p) (needs : needsSvinval i = true)
    (absent : s.cfg.svinval = false) : exec i s = .next (s.takeIllegal (encode i)) := by
  obtain ⟨act, meaning⟩ := asks
  rw [meaning, if_pos needs, State.ifSvinval_of_absent absent, State.guarded_illegal]

/-- A fence whose permission is an illegal instruction is one even without its extension. -/
theorem State.Asks.exec_of_illegal (asks : s.Asks i .illegal) : exec i s = .next (s.takeIllegal (encode i)) := by
  obtain ⟨act, meaning⟩ := asks
  rw [meaning, State.ifSvinval_illegal, ite_self, State.guarded_illegal]

theorem State.Asks.exec_of_virt (asks : s.Asks i .virt) (present : needsSvinval i = true → s.cfg.svinval = true) :
    exec i s = .next (s.takeVirtual (encode i)) := by
  obtain ⟨act, meaning⟩ := asks
  have asked : (if needsSvinval i then s.ifSvinval .virt else .virt) = Permit.virt :=
    ite_eq_right_iff.mpr fun needs => State.ifSvinval_of_present (present needs) _
  rw [meaning, asked, State.guarded_virt]

/-! ## The permission of each fence -/

theorem asks_sfencePermit (hi : i ∈ [Instr.sfenceVma rs1 rs2, .sinvalVma rs1 rs2]) : s.Asks i s.sfencePermit := by
  simp only [List.mem_cons, List.not_mem_nil, or_false] at hi
  obtain rfl | rfl := hi <;> exact ⟨fun s => .next (s.sfence rs1 rs2).retire, rfl⟩

theorem asks_hfenceVPermit (hi : i ∈ [Instr.hfenceVvma rs1 rs2, .hinvalVvma rs1 rs2]) : s.Asks i s.hfenceVPermit := by
  simp only [List.mem_cons, List.not_mem_nil, or_false] at hi
  obtain rfl | rfl := hi <;> exact ⟨fun s => .next (s.fenceGuest rs1 rs2).retire, rfl⟩

theorem asks_hfenceGPermit (hi : i ∈ [Instr.hfenceGvma rs1 rs2, .hinvalGvma rs1 rs2]) : s.Asks i s.hfenceGPermit := by
  simp only [List.mem_cons, List.not_mem_nil, or_false] at hi
  obtain rfl | rfl := hi <;> exact ⟨fun s => .next (s.fenceGpa rs1 rs2).retire, rfl⟩

theorem asks_fenceInvalPermit (hi : i ∈ [Instr.sfenceWInval, .sfenceInvalIr]) : s.Asks i s.fenceInvalPermit := by
  simp only [List.mem_cons, List.not_mem_nil, or_false] at hi
  obtain rfl | rfl := hi <;> exact ⟨fun s => .next s.retire, rfl⟩

/-- Each Svinval instruction asks some permission, so that it asks for the extension. -/
theorem asks_of_svinval
    (hi : i ∈ [Instr.sinvalVma rs1 rs2, .hinvalVvma rs1 rs2, .hinvalGvma rs1 rs2, .sfenceWInval, .sfenceInvalIr]) :
    needsSvinval i = true ∧ ∃ p, s.Asks i p := by
  simp only [List.mem_cons, List.not_mem_nil, or_false] at hi
  obtain rfl | rfl | rfl | hi := hi
  · exact ⟨rfl, _, asks_sfencePermit (.tail _ (.head _))⟩
  · exact ⟨rfl, _, asks_hfenceVPermit (.tail _ (.head _))⟩
  · exact ⟨rfl, _, asks_hfenceGPermit (.tail _ (.head _))⟩
  · refine ⟨?_, _, asks_fenceInvalPermit (by simpa using hi)⟩
    obtain rfl | rfl := hi <;> rfl

/-- Of the fences of the supervisor, SINVAL.VMA alone needs Svinval. -/
theorem eq_sinvalVma_of_needsSvinval (hi : i ∈ [Instr.sfenceVma rs1 rs2, .sinvalVma rs1 rs2])
    (needs : needsSvinval i = true) : i = .sinvalVma rs1 rs2 := by
  simp only [List.mem_cons, List.not_mem_nil, or_false] at hi
  obtain rfl | rfl := hi
  · exact nomatch needs
  · rfl

/-- A fence of the hypervisor asks the permission of its stage; the HINVAL ones alone need Svinval. -/
theorem asks_hfence
    (hi : i ∈ [Instr.hfenceVvma rs1 rs2, .hinvalVvma rs1 rs2, .hfenceGvma rs1 rs2, .hinvalGvma rs1 rs2]) :
    (s.Asks i s.hfenceVPermit ∨ s.Asks i s.hfenceGPermit)
      ∧ (needsSvinval i = true → i = .hinvalVvma rs1 rs2 ∨ i = .hinvalGvma rs1 rs2) := by
  simp only [List.mem_cons, List.not_mem_nil, or_false] at hi
  obtain rfl | rfl | rfl | rfl := hi
  · exact ⟨.inl (asks_hfenceVPermit (.head _)), nofun⟩
  · exact ⟨.inl (asks_hfenceVPermit (.tail _ (.head _))), fun _ => .inl rfl⟩
  · exact ⟨.inr (asks_hfenceGPermit (.head _)), nofun⟩
  · exact ⟨.inr (asks_hfenceGPermit (.tail _ (.head _))), fun _ => .inr rfl⟩

/-! ## Where a permission is refused -/

/-- Without supervisor mode, or where SFENCE_BARE_ILLEGAL applies, no mode may fence (R785). -/
theorem State.sfencePermit_of_absent
    (absent : s.hasS = false ∨ (s.cfg.sfenceBareIllegal = true ∧ pagedAt s.cfg s.sxlen = false)) :
    s.sfencePermit = .illegal := by
  obtain noS | ⟨bare, unpaged⟩ := absent
  · simp [State.sfencePermit, noS]
  · simp [State.sfencePermit, State.pagedMode, bare, unpaged]

theorem State.sfencePermit_of_trap (hv : s.virt = false)
    (mode : s.priv = .user ∨ (s.priv = .supervisor ∧ s.mstatus.tvm = true)) : s.sfencePermit = .illegal := by
  obtain hp | ⟨hp, tvm⟩ := mode
  · simp [State.sfencePermit, hp, hv]
  · simp [State.sfencePermit, hp, hv, tvm]

theorem State.sfencePermit_of_guest (hS : s.hasS = true)
    (paged : s.cfg.sfenceBareIllegal = false ∨ pagedAt s.cfg s.sxlen = true) (hv : s.virt = true)
    (mode : s.priv = .user ∨ (s.priv = .supervisor ∧ s.h.status.vtvm = true)) : s.sfencePermit = .virt := by
  have allowed : (s.cfg.sfenceBareIllegal && !s.pagedMode) = false := by
    obtain bare | paged := paged
    · simp [bare]
    · simp [State.pagedMode, hS, paged]
  obtain hp | ⟨hp, vtvm⟩ := mode
  · simp [State.sfencePermit, hS, allowed, hp, hv]
  · simp [State.sfencePermit, hS, allowed, hp, hv, vtvm]

/-- The two stages refuse alike where the extension is absent and in U-mode. -/
theorem State.hfencePermits_of_trap (refused : s.hasH = false ∨ (s.virt = false ∧ s.priv = .user)) :
    s.hfenceVPermit = .illegal ∧ s.hfenceGPermit = .illegal := by
  obtain noH | ⟨hv, hp⟩ := refused
  · simp [State.hfenceVPermit, State.hfenceGPermit, noH]
  · simp [State.hfenceVPermit, State.hfenceGPermit, hv, hp]

theorem State.hfencePermits_of_guest (hH : s.hasH = true) (hv : s.virt = true) :
    s.hfenceVPermit = .virt ∧ s.hfenceGPermit = .virt := by
  simp [State.hfenceVPermit, State.hfenceGPermit, hH, hv]

/-- HS-mode with TVM = 1 may not fence the G-stage (R841). -/
theorem State.hfenceGPermit_of_tvm (hv : s.virt = false) (hp : s.priv = .supervisor) (tvm : s.mstatus.tvm = true) :
    s.hfenceGPermit = .illegal := by
  simp [State.hfenceGPermit, hv, hp, tvm]

theorem State.fenceInvalPermit_of_user (hp : s.priv = .user) :
    s.fenceInvalPermit = if s.virt then .virt else .illegal := if_pos hp

end

/-- Settles O49: what each fence asks is refused in these states, and the refusal is the exception it takes. -/
theorem fencePermission : Obligations.FencePermission := by
  unfold Obligations.FencePermission
  intro s rs1 rs2
  refine ⟨?noSvinval, ?sfence, ?hfence, ?hfenceTvm, ?fenceInval⟩
  case noSvinval =>
    intro i hi absent
    obtain ⟨needs, p, asks⟩ := asks_of_svinval (s := s) hi
    exact asks.exec_of_absent needs absent
  case sfence =>
    intro i hi
    have asks : s.Asks i s.sfencePermit := asks_sfencePermit hi
    refine ⟨fun absent => ?_, fun hv mode => ?_, fun hS paged svinval hv mode => ?_⟩
    · rw [State.sfencePermit_of_absent absent] at asks
      exact asks.exec_of_illegal
    · rw [State.sfencePermit_of_trap hv mode] at asks
      exact asks.exec_of_illegal
    · rw [State.sfencePermit_of_guest hS paged hv mode] at asks
      exact asks.exec_of_virt fun needs => svinval (eq_sinvalVma_of_needsSvinval hi needs)
  case hfence =>
    intro i hi
    obtain ⟨asks, hinval⟩ := asks_hfence (s := s) hi
    refine ⟨fun refused => ?_, fun hH svinval hv => ?_⟩
    · obtain ⟨refusedV, refusedG⟩ := State.hfencePermits_of_trap refused
      rw [refusedV, refusedG, or_self] at asks
      exact asks.exec_of_illegal
    · obtain ⟨virtV, virtG⟩ := State.hfencePermits_of_guest hH hv
      rw [virtV, virtG, or_self] at asks
      exact asks.exec_of_virt fun needs => svinval (hinval needs)
  case hfenceTvm =>
    intro i hi hv hp tvm
    have asks : s.Asks i s.hfenceGPermit := asks_hfenceGPermit hi
    rw [State.hfenceGPermit_of_tvm hv hp tvm] at asks
    exact asks.exec_of_illegal
  case fenceInval =>
    intro i hi present hp
    have asks : s.Asks i s.fenceInvalPermit := asks_fenceInvalPermit hi
    rw [State.fenceInvalPermit_of_user hp] at asks
    cases hv : s.virt with
    | false =>
      rw [hv] at asks
      exact asks.exec_of_illegal
    | true =>
      rw [hv] at asks
      exact asks.exec_of_virt fun _ => present

end Sys2Proof.Machine
end

section
/-! The CSR accesses that the check refuses: the counters by their addresses, then the refusals with V = 0 and with
V = 1, and the exception that each of the six forms takes on one. -/

namespace Sys2Proof.Machine

open Sys2Proof

/-! ## Levels and read-only addresses (R40) -/

theorem csrLevel_of_bits {a : BitVec 12} {l : BitVec 2} (h : a.extractLsb' 8 2 = l) : csrLevel a = l.toNat :=
  congrArg BitVec.toNat h

theorem csrReadOnly_iff (a : BitVec 12) : csrReadOnly a = true ↔ a.extractLsb' 10 2 = 3#2 := beq_iff_eq

/-- S-mode and U-mode reach nothing of the machine level, and U-mode nothing above its own (R41). -/
theorem reaches_eq_false {p : Priv} {a : BitVec 12}
    (h : (p = .supervisor ∧ a.extractLsb' 8 2 = 3#2) ∨ (p = .user ∧ a.extractLsb' 8 2 ≠ 0#2)) :
    reaches p (csrLevel a) = false := by
  obtain ⟨rfl, level⟩ | ⟨rfl, level⟩ := h
  · rw [csrLevel_of_bits level]
    rfl
  · have positive : csrLevel a ≠ 0 := fun zero => level (BitVec.eq_of_toNat_eq zero)
    simp [reaches, positive]

/-! ## The addresses of the counters (R43, R728) -/

theorem csrOfS_counterBit {n : Nat} {r : CsrReg} (h : csrOfS n = some r) : r.counterBit = none := by
  unfold csrOfS at h
  split at h <;> cases h <;> rfl

theorem csrOfH_counterBit {n : Nat} {r : CsrReg} (h : csrOfH n = some r) : r.counterBit = none := by
  unfold csrOfH at h
  split at h <;> cases h <;> rfl

theorem csrOfM_counterBit {n : Nat} {r : CsrReg} (h : csrOfM n = some r) : r.counterBit = none := by
  unfold csrOfM at h
  split at h <;> cases h <;> rfl

theorem csrOfU_level {n : Nat} {r : CsrReg} (h : csrOfU n = some r) : n / 256 % 4 = 0 := by
  unfold csrOfU at h
  split at h <;> cases h <;> rfl

theorem csrOfRange_counterBit {n : Nat} {r : CsrReg} (h : csrOfRange n = some r) (hl : n / 256 % 4 ≠ 0) :
    r.counterBit = none := by
  unfold csrOfRange at h
  split_ifs at h <;> cases h
  · omega
  · omega
  all_goals rfl

/-- Above the user level no address names a counter that the enable registers govern. -/
theorem csrOf_counterBit_eq_none {a : BitVec 12} {r : CsrReg} (h : csrOf a = some r) (hl : csrLevel a ≠ 0) :
    r.counterBit = none := by
  rw [csrLevel_eq] at hl
  simp only [csrOf, Option.or_eq_some_iff] at h
  obtain hS | ⟨-, hH | ⟨-, hM | ⟨-, hU | ⟨-, hR⟩⟩⟩⟩ := h
  · exact csrOfS_counterBit hS
  · exact csrOfH_counterBit hH
  · exact csrOfM_counterBit hM
  · exact absurd (csrOfU_level hU) hl
  · exact csrOfRange_counterBit hR hl

/-- The counters at 0xC00 and their high halves at 0xC80 (R43). -/
theorem csrOf_counters : ∀ n : Fin 32,
    (csrOf (BitVec.ofNat 12 (0xC00 + n))).bind CsrReg.counterBit = some n.val
      ∧ (csrOf (BitVec.ofNat 12 (0xC80 + n))).bind CsrReg.counterBit = some n.val := by decide

section
variable {a : BitVec 12} {n : Nat}

theorem CounterAddress.level (h : CounterAddress a n) : csrLevel a = 0 := by
  obtain ⟨bound, low | high⟩ := h <;> rw [csrLevel_eq] <;> omega

/-- The register at a counter's address is enabled by the counter's bit. -/
theorem CounterAddress.counterBit (h : CounterAddress a n) {r : CsrReg} (names : csrOf a = some r) :
    r.counterBit = some n := by
  obtain ⟨bound, place⟩ := h
  obtain ⟨atLow, atHigh⟩ := csrOf_counters ⟨n, bound⟩
  have bit : (csrOf a).bind CsrReg.counterBit = some n := by
    obtain low | high := place
    · have ha : a = BitVec.ofNat 12 (0xC00 + n) := by simp [← low]
      rw [ha, atLow]
    · have ha : a = BitVec.ofNat 12 (0xC80 + n) := by simp [← high]
      rw [ha, atHigh]
  rwa [names] at bit

end

/-! ## The counter check (R728) -/

section
variable {s : State} {n : Nat}

theorem State.counterCheck_of_mcounteren (hp : s.priv ≠ .machine) (clear : s.m.counteren.getLsbD n = false) :
    s.counterCheck n = .illegal := by
  simp [State.counterCheck, hp, clear]

/-- U-mode asks `scounteren` too. -/
theorem State.counterCheck_of_scounteren (hv : s.virt = false) (hp : s.priv = .user) (hS : s.hasS = true)
    (clear : s.s.counteren.getLsbD n = false) : s.counterCheck n = .illegal := by
  simp [State.counterCheck, hv, hp, hS, clear]

/-- A counter that M-mode enables and the guest's other enable registers do not (D47). -/
theorem State.counterCheck_of_guest (hv : s.virt = true) (hp : s.priv ≠ .machine)
    (enabled : s.m.counteren.getLsbD n = true)
    (clear : s.h.counteren.getLsbD n = false ∨ (s.priv = .user ∧ s.s.counteren.getLsbD n = false)) :
    s.counterCheck n = .virt := by
  obtain clear | ⟨user, clear⟩ := clear
  · simp [State.counterCheck, hv, hp, enabled, clear]
  · simp [State.counterCheck, hv, user, enabled, clear]

theorem State.extraCheck_of_counterBit {r : CsrReg} (h : r.counterBit = some n) :
    s.extraCheck r = s.counterCheck n := by
  simp [State.extraCheck, h]

end

/-! ## Refusals with V = 0 -/

section
variable {s : State} {a : BitVec 12} {w : Bool}

theorem State.csrAt_eq_some_iff {xl : Xlen} {r : CsrReg} :
    s.csrAt xl a = some r ↔ csrOf a = some r ∧ s.csrExists xl r = true := by
  unfold State.csrAt
  cases csrOf a <;> grind

/-- With V = 0 the check refuses an access unless it passes each of the three conditions of R727. -/
theorem State.csrCheck_eq_illegal (hv : s.virt = false)
    (h : ∀ r, s.csrAt s.xlen a = some r →
      reaches s.priv (csrLevel a) = false ∨ (w = true ∧ csrReadOnly a = true) ∨ s.extraCheck r = .illegal) :
    s.csrCheck a w = .illegal := by
  unfold State.csrCheck
  cases named : s.csrAt s.xlen a with
  | none => simp [hv]
  | some r =>
    obtain level | ⟨writes, readOnly⟩ | extra := h r named
    · simp [hv, level]
    · simp [hv, writes, readOnly]
    · simp [hv, extra]

/-- `satp` and `hgatp` in S-mode with TVM = 1 (R727). -/
theorem State.extraCheck_of_tvm {r : CsrReg} (hp : s.priv = .supervisor) (tvm : s.mstatus.tvm = true)
    (h : r = .satp ∨ r = .hgatp) : s.extraCheck r = .illegal := by
  obtain rfl | rfl := h <;> simp [State.extraCheck, CsrReg.counterBit, hp, tvm]

/-- A counter that `mcounteren` or, from U-mode, `scounteren` does not enable (R728). -/
theorem State.extraCheck_of_counter {r : CsrReg} {n : Nat} (hv : s.virt = false) (bit : r.counterBit = some n)
    (h : (s.priv ≠ .machine ∧ s.m.counteren.getLsbD n = false)
      ∨ (s.priv = .user ∧ s.hasS = true ∧ s.s.counteren.getLsbD n = false)) : s.extraCheck r = .illegal := by
  rw [State.extraCheck_of_counterBit bit]
  obtain ⟨hp, clear⟩ | ⟨hp, hS, clear⟩ := h
  · exact State.counterCheck_of_mcounteren hp clear
  · exact State.counterCheck_of_scounteren hv hp hS clear

end

/-! ## Refusals with V = 1 -/

/-- The low half of a high-half register that exists does so at XLEN = 32 (R725). -/
theorem State.csrExists_lowHalf {s : State} {xl : Xlen} {r : CsrReg} (high : r.highHalf = true)
    (present : s.csrExists xl r = true) : s.csrExists .x32 r.lowHalf = true := by
  unfold CsrReg.highHalf at high
  split at high <;> simp_all [State.csrExists, CsrReg.lowHalf]

section
variable {s : State} {a : BitVec 12} {r : CsrReg} {w : Bool}

/-- With V = 1 an address that names nothing, one of the machine level, a read-only one that is written, or one whose
register does not exist is refused whatever HS-mode could do (R724, R725). -/
theorem State.csrCheck_eq_illegal_of_guest (hv : s.virt = true)
    (h : csrOf a = none ∨ csrLevel a = 3 ∨ (w = true ∧ csrReadOnly a = true)
      ∨ ∃ r, csrOf a = some r ∧ s.csrExists s.xlen r = false) :
    s.csrCheck a w = .illegal := by
  unfold State.csrCheck
  cases named : csrOf a with
  | none => simp [hv]
  | some r =>
    obtain nothing | level | ⟨writes, readOnly⟩ | ⟨r', names, absent⟩ := h
    · rw [named] at nothing
      cases nothing
    · simp [hv, level]
    · simp [hv, State.hsQualified, writes, readOnly]
    · cases named.symm.trans names
      simp [hv, State.hsQualified, absent]

/-- With V = 1 the address `a` names `r`, which exists at the width in effect and which the access does not try to write
where it is read-only: what is left to ask is its level and the conditions of R727 and R728. -/
structure State.NamedInGuest (s : State) (a : BitVec 12) (w : Bool) (r : CsrReg) : Prop where
  virt : s.virt = true
  names : csrOf a = some r
  present : s.csrExists s.xlen r = true
  shown : r.highHalf = true → s.xlen = .x32
  writable : (w && csrReadOnly a) = false

/-- HS-mode could access any such register but a machine-level one and a counter (R725). -/
theorem State.NamedInGuest.hsQualified (h : s.NamedInGuest a w r) (level : csrLevel a ≤ 2)
    (counter : r.counterBit = none) : s.hsQualified a r w s.xlen = true := by
  have lowHalf : (if r.highHalf then s.csrExists .x32 r.lowHalf else true) = true := by
    split
    · next high => exact State.csrExists_lowHalf high h.present
    · rfl
  simp only [State.hsQualified, h.present, lowHalf, level, h.writable, counter]
  rfl

theorem State.NamedInGuest.shown_eq_false (h : s.NamedInGuest a w r) : (r.highHalf && s.xlen != .x32) = false := by
  cases high : r.highHalf
  · rfl
  · rw [h.shown high]
    rfl

/-- A hypervisor register, or a supervisor one from VU-mode (R724). -/
theorem State.NamedInGuest.csrCheck_above (h : s.NamedInGuest a w r)
    (level : csrLevel a = 2 ∨ (csrLevel a = 1 ∧ s.priv = .user)) : s.csrCheck a w = .virt := by
  have counter : r.counterBit = none := csrOf_counterBit_eq_none h.names (by omega)
  have qualified := h.hsQualified (by omega) counter
  unfold State.csrCheck
  obtain level | ⟨level, user⟩ := level
  · simp [h.virt, h.names, h.shown_eq_false, level, qualified]
  · simp [h.virt, h.names, h.shown_eq_false, level, user, qualified]

/-- `satp` from VS-mode with VTVM = 1 (R727). -/
theorem State.NamedInGuest.csrCheck_satp (h : s.NamedInGuest a w .satp) (level : csrLevel a = 1)
    (hp : s.priv = .supervisor) (vtvm : s.h.status.vtvm = true) : s.csrCheck a w = .virt := by
  have counter : CsrReg.counterBit .satp = none := rfl
  unfold State.csrCheck
  simp [h.virt, h.names, h.shown_eq_false, level, hp, h.present, h.writable, counter, vtvm]

/-- A counter is left to the enable registers (R728). -/
theorem State.NamedInGuest.csrCheck_counter (h : s.NamedInGuest a w r) {n : Nat} (counter : CounterAddress a n) :
    s.csrCheck a w = s.counterCheck n := by
  unfold State.csrCheck
  simp [h.virt, h.names, h.shown_eq_false, counter.level, h.present, h.writable, counter.counterBit h.names]

end

/-! ## The exception of a refused form -/

section
variable {s : State} {rd rs1 : RegIdx} {a : BitVec 12} {form : Instr × Bool × (Word → Word)}

theorem exec_csrForm_of_illegal (hf : form ∈ csrForms s rd a rs1) (hc : s.csrCheck a form.2.1 = .illegal) :
    exec form.1 s = .next (s.takeIllegal (encode form.1)) := by
  rw [exec_csrForm hf, State.csrOp, hc, State.guarded_illegal]

theorem exec_csrForm_of_virt (hf : form ∈ csrForms s rd a rs1) (hc : s.csrCheck a form.2.1 = .virt) :
    exec form.1 s = .next (s.takeVirtual (encode form.1)) := by
  rw [exec_csrForm hf, State.csrOp, hc, State.guarded_virt]

end

/-- Settles O51: where the register exists, each of the other refusals fails one condition of the check. -/
theorem csrAccessRefused : Obligations.CsrAccessRefused := by
  unfold Obligations.CsrAccessRefused
  intro s rd rs1 a hv form hf refused
  refine exec_csrForm_of_illegal hf (State.csrCheck_eq_illegal hv fun r at_a => ?_)
  obtain ⟨names, -⟩ := State.csrAt_eq_some_iff.mp at_a
  obtain absent | level | level | ⟨writes, readOnly⟩ | ⟨hp, tvm, place⟩ | ⟨n, counter, clear⟩ := refused
  · cases absent.symm.trans at_a
  · exact .inl (reaches_eq_false (.inl level))
  · exact .inl (reaches_eq_false (.inr level))
  · exact .inr (.inl ⟨writes, (csrReadOnly_iff a).mpr readOnly⟩)
  · have table : r = .satp ∨ r = .hgatp := by
      obtain rfl | rfl := place <;> cases names
      · exact .inl rfl
      · exact .inr rfl
    exact .inr (.inr (State.extraCheck_of_tvm hp tvm table))
  · exact .inr (.inr (State.extraCheck_of_counter hv (counter.counterBit names) clear))

/-- Settles O52: the check refuses what does not exist at all, and asks the level, VTVM and the counter enables of the
rest. -/
theorem csrAccessFromGuest : Obligations.CsrAccessFromGuest := by
  unfold Obligations.CsrAccessFromGuest
  intro s rd rs1 a hv form hf
  rw [← csrReadOnly_iff]
  refine ⟨fun refused => ?_, fun named names present shown writable => ?_⟩
  · refine exec_csrForm_of_illegal hf (State.csrCheck_eq_illegal_of_guest hv ?_)
    exact refused.imp_right (Or.imp_left csrLevel_of_bits)
  have guest : s.NamedInGuest a form.2.1 named := ⟨hv, names, present, shown, by simpa using writable⟩
  refine ⟨fun trapped => exec_csrForm_of_virt hf ?_, fun n counter hp => ?_⟩
  · obtain level | ⟨level, hp⟩ | ⟨rfl, hp, vtvm⟩ := trapped
    · exact guest.csrCheck_above (.inl (csrLevel_of_bits level))
    · exact guest.csrCheck_above (.inr ⟨csrLevel_of_bits level, hp⟩)
    · cases names
      exact guest.csrCheck_satp rfl hp vtvm
  · have check := guest.csrCheck_counter counter
    refine ⟨fun clear => exec_csrForm_of_illegal hf ?_, fun enabled clear => exec_csrForm_of_virt hf ?_⟩
    · rw [check, State.counterCheck_of_mcounteren hp clear]
    · rw [check, State.counterCheck_of_guest hv hp enabled clear]

end Sys2Proof.Machine
end

section
/-! The system instructions of the machine level (41_machine_instructions.md R750 to R754): what the trap of an exception
saves, in whichever mode its handler runs, and what a return from a trap changes. -/

namespace Sys2Proof.Machine

open Sys2Proof

/-! ## What the trap registers hold (R170, R177, R880, R882) -/

theorem heldAs_holdAddr (set : AddrSet) (xl : Xlen) (v : Word) : HeldAs set xl v (holdAddr set xl v) := by
  cases xl with
  | x32 => rfl
  | x64 =>
    cases set with
    | all => rfl
    | bits k => exact fun valid => if_pos valid

theorem epcZeros_eq (c : Config) : epcZeros c = if c.misaExt.getLsbD Config.bitC then 1#64 else 3#64 := rfl

theorem savedPc_epcValue (c : Config) (xl : Xlen) (pc : Word) : SavedPc c xl pc (epcValue c xl pc) :=
  ⟨holdAddr c.xepcLegal xl pc, heldAs_holdAddr _ _ _, by rw [epcValue, epcZeros_eq]⟩

theorem heldAs_tvalValue (c : Config) (xl : Xlen) (v : Word) : HeldAs c.xtvalLegal xl v (tvalValue c xl v) :=
  heldAs_holdAddr _ _ _

/-- An exception code fits in every width, and leaves the Interrupt bit clear. -/
theorem causeWord_exception (xl : Xlen) (c : ExcCode) : causeWord xl false c.code = BitVec.ofNat 64 c.code := by
  cases xl <;> cases c <;> rfl

theorem State.pcAtTrap_eq_savedPc (s : State) : s.pcAtTrap = s.savedPc := rfl

/-- Entry into any of the three handlers saves the program counter, the code and the trap value of an exception. -/
theorem State.enter_trapSaved (s : State) (d : Dest) {t : TrapInfo} {c : ExcCode} (sync : t.isInt = false)
    (code : t.code = c.code) : s.TrapSaved (s.enter d t) t.epc t.tval c.code := by
  have cause (xl : Xlen) : causeWord xl t.isInt t.code = BitVec.ofNat 64 c.code := by
    rw [sync, code, causeWord_exception]
  cases d with
  | m =>
    have tval : SavedMtval s.cfg s.mxlen t.tval (s.enterM t).m.tval := by
      unfold SavedMtval State.enterM
      split
      · rfl
      · exact heldAs_tvalValue _ _ _
    exact ⟨savedPc_epcValue _ _ _, cause _, tval⟩
  | s => exact ⟨savedPc_epcValue _ _ _, cause _, heldAs_tvalValue _ _ _⟩
  | vs =>
    have cause : (s.enterVS t).vs.cause = BitVec.ofNat 64 c.code := by
      rw [← cause s.vsxlen, State.enterVS, sync]
      rfl
    exact ⟨savedPc_epcValue _ _ _, cause, heldAs_tvalValue _ _ _⟩

/-- The trap of an exception saves its `pc`, code and trap value, or 0 where the platform so chooses (R862). -/
theorem State.takeException_trapSaved (s : State) (w : BitVec 32) (e : Excn) :
    s.TrapSaved (s.takeException w e) s.pcAtTrap (if s.cfg.xtvalZero.getLsbD e.code.code then 0 else e.tval)
      e.code.code := by
  rw [s.pcAtTrap_eq_savedPc]
  exact s.enter_trapSaved _ rfl rfl

/-- An exception does not retire its instruction (R752). -/
@[simp] theorem State.takeException_instret (s : State) (w : BitVec 32) (e : Excn) :
    (s.takeException w e).m.instret = s.m.instret := by
  unfold State.takeException
  obtain ⟨-, taken⟩ | ⟨-, taken⟩ | ⟨-, taken⟩ := s.enter_cases (s.exceptionTarget e.code) (s.trapInfo w e)
  all_goals rw [taken]; rfl

/-! ## ECALL and EBREAK -/

theorem exec_ecall (s : State) : exec .ecall s =
    .next (s.takeException 0x00000073#32 { code := ecallCode s.priv s.virt, tval := 0 }) := rfl

theorem exec_ebreak (s : State) : exec .ebreak s =
    .next (s.takeException 0x00100073#32
      { code := .breakpoint, tval := zxTo s.xlen s.pc, guest := s.virt, ea := zxTo s.xlen s.pc }) := rfl

/-- Settles O41: both are exceptions, and every exception saves its own program counter, code and trap value. -/
theorem ecallEbreakTrap : Obligations.EcallEbreakTrap := by
  unfold Obligations.EcallEbreakTrap
  intro s
  constructor
  · refine ⟨_, _, exec_ecall s, rfl, rfl, ?code, ?saved, State.takeException_x _ _ _,
      State.takeException_instret _ _ _⟩
    case code =>
      change (ecallCode s.priv s.virt).code = _
      cases s.priv <;> cases s.virt <;> rfl
    case saved =>
      have saved := s.takeException_trapSaved 0x00000073#32 { code := ecallCode s.priv s.virt, tval := 0 }
      rwa [ite_self] at saved
  · exact ⟨_, _, exec_ebreak s, rfl, rfl, rfl, s.takeException_trapSaved _ _, State.takeException_x _ _ _,
      State.takeException_instret _ _ _⟩

/-! ## Returns from a trap (R753, R754) -/

theorem State.freeReservation_reservation (s : State) :
    s.freeReservation.reservation = s.reservation ∨ s.freeReservation.reservation = none := by
  unfold State.freeReservation
  cases s.reservation with
  | none => exact .inl rfl
  | some r =>
    dsimp only
    split
    · exact .inl rfl
    · exact .inr rfl

/-- Completing a return changes `pc`, the reservation, the draw counter and `minstret`, and nothing else. -/
theorem State.completeReturn_same (s : State) (epc : Word) :
    s.completeReturn epc = { s with
      pc := sxTo s.xlen (s.epcRead epc), reservation := (s.completeReturn epc).reservation
      draws := s.draws + 1, m := { s.m with instret := s.nextInstret } } := by
  rw [State.completeReturn, State.retireTo_eq]
  rfl

/-- The width in effect after a return is that of the mode returned to. -/
@[simp] theorem State.completeReturn_xlen (s : State) (epc : Word) : (s.completeReturn epc).xlen = s.xlen := by
  rw [State.completeReturn_same]
  rfl

theorem State.completeReturn_reservation (s : State) (epc : Word) :
    (s.completeReturn epc).reservation = s.reservation ∨ (s.completeReturn epc).reservation = none := by
  have kept : (s.retireTo (s.epcRead epc)).reservation = s.reservation := by simp
  rw [← kept]
  exact State.freeReservation_reservation _

/-! ## MRET -/

theorem encode_mret : encode .mret = 0x30200073#32 := rfl

theorem exec_mret_of_machine {s : State} (h : s.priv = .machine) :
    exec .mret s = .next (s.returnFromM.completeReturn s.m.epc) := by
  change execMret s = _
  rw [execMret, if_pos h, State.guarded_ok]

theorem exec_mret_of_not_machine {s : State} (h : s.priv ≠ .machine) :
    exec .mret s = .next (s.takeIllegal 0x30200073#32) := by
  change execMret s = _
  rw [execMret, if_neg h, State.guarded_illegal, encode_mret]

/-- The mode MRET returns to is virtual where the hypervisor extension is there, MPV is set and MPP is not M (R754). -/
theorem State.returnFromM_virt (s : State) :
    s.returnFromM.virt = if s.hasH && s.mstatus.mpp != .machine then s.mstatus.mpv else false := by
  change (s.hasH && s.mstatus.mpp != .machine && s.mstatus.mpv) = _
  cases s.hasH && s.mstatus.mpp != .machine <;> rfl

/-- Settles O42: MRET unstacks the mode and then completes as every return does. -/
theorem mretReturns : Obligations.MretReturns := by
  unfold Obligations.MretReturns
  intro s
  refine ⟨fun machine => ⟨_, exec_mret_of_machine machine, ?_⟩, exec_mret_of_not_machine, encode_mret⟩
  have same := s.returnFromM.completeReturn_same s.m.epc
  have width := s.returnFromM.completeReturn_xlen s.m.epc
  have reservation := s.returnFromM.completeReturn_reservation s.m.epc
  generalize s.returnFromM.completeReturn s.m.epc = t at same width reservation ⊢
  refine ⟨?priv, ?virt, ?mstatus, ?pc, reservation, ?frame⟩
  case priv => rw [same]; rfl
  case virt => rw [same]; exact s.returnFromM_virt
  case mstatus => rw [same]; rfl
  case pc => rw [width, same]; rfl
  case frame => rw [same]; rfl

end Sys2Proof.Machine
end

section
/-! The return from a supervisor trap handler, with V = 0 and with V = 1 (42_supervisor_instructions.md R780). -/

namespace Sys2Proof.Machine

open Sys2Proof

/-! ## Where SRET executes (R780, first table) -/

theorem State.sretPermit_of_noS {s : State} (absent : s.hasS = false) : s.sretPermit = .illegal := by
  rw [State.sretPermit, absent]
  rfl

/-- Outside of a guest M-mode executes SRET, and HS-mode where TSR lets it. -/
theorem State.sretPermit_ok_of_host {s : State} (present : s.hasS = true) (host : s.virt = false)
    (allowed : s.priv = .machine ∨ (s.priv = .supervisor ∧ s.mstatus.tsr = false)) : s.sretPermit = .ok := by
  rw [State.sretPermit, present, host]
  obtain machine | ⟨supervisor, tsr⟩ := allowed
  · rw [machine]; rfl
  · rw [supervisor, tsr]; rfl

theorem State.sretPermit_ok_of_guest {s : State} (present : s.hasS = true) (guest : s.virt = true)
    (supervisor : s.priv = .supervisor) (vtsr : s.h.status.vtsr = false) : s.sretPermit = .ok := by
  rw [State.sretPermit, present, guest, supervisor, vtsr]
  rfl

/-- What does not execute SRET takes an illegal instruction outside of a guest. -/
theorem State.sretPermit_illegal {s : State} (refused : s.hasS = false
      ∨ (s.virt = false ∧ (s.priv = .user ∨ (s.priv = .supervisor ∧ s.mstatus.tsr = true)))) :
    s.sretPermit = .illegal := by
  by_cases absent : s.hasS = false
  · exact State.sretPermit_of_noS absent
  · obtain ⟨host, refused⟩ := refused.resolve_left absent
    rw [State.sretPermit, Bool.eq_true_of_not_eq_false absent, host]
    obtain user | ⟨supervisor, tsr⟩ := refused
    · rw [user]; rfl
    · rw [supervisor, tsr]; rfl

/-- What does not execute SRET takes a virtual instruction inside a guest. -/
theorem State.sretPermit_virt {s : State} (present : s.hasS = true) (guest : s.virt = true)
    (refused : s.priv = .user ∨ (s.priv = .supervisor ∧ s.h.status.vtsr = true)) : s.sretPermit = .virt := by
  rw [State.sretPermit, present, guest]
  obtain user | ⟨supervisor, vtsr⟩ := refused
  · rw [user]; rfl
  · rw [supervisor, vtsr]; rfl

/-! ## What SRET does -/

theorem encode_sret : encode .sret = 0x10200073#32 := rfl

theorem exec_sret (s : State) : exec .sret s = s.guarded 0x10200073#32 s.sretPermit fun s =>
    if s.virt then .next (s.returnFromVS.completeReturn s.vs.epc)
    else .next (s.returnFromS.completeReturn s.s.epc) := rfl

theorem exec_sret_of_host {s : State} (ok : s.sretPermit = .ok) (host : s.virt = false) :
    exec .sret s = .next (s.returnFromS.completeReturn s.s.epc) := by
  rw [exec_sret, ok, State.guarded_ok, host]
  rfl

theorem exec_sret_of_guest {s : State} (ok : s.sretPermit = .ok) (guest : s.virt = true) :
    exec .sret s = .next (s.returnFromVS.completeReturn s.vs.epc) := by
  rw [exec_sret, ok, State.guarded_ok, guest]
  rfl

theorem exec_sret_of_illegal {s : State} (illegal : s.sretPermit = .illegal) :
    exec .sret s = .next (s.takeIllegal 0x10200073#32) := by
  rw [exec_sret, illegal, State.guarded_illegal]

theorem exec_sret_of_virt {s : State} (virt : s.sretPermit = .virt) :
    exec .sret s = .next (s.takeVirtual 0x10200073#32) := by
  rw [exec_sret, virt, State.guarded_virt]

/-- The mode SRET returns to with V = 0 is virtual where the hypervisor extension is there and SPV is set (R780). -/
theorem State.returnFromS_virt (s : State) : s.returnFromS.virt = if s.hasH then s.h.status.spv else false := by
  change (s.hasH && s.h.status.spv) = _
  cases s.hasH <;> rfl

/-- Settles O43: the permission table decides whether SRET executes; where it does, it unstacks the mode of HS-level or
of VS-level and then completes as every return does. -/
theorem sretReturns : Obligations.SretReturns := by
  unfold Obligations.SretReturns
  refine ⟨fun s present host allowed => ?host, fun s present guest supervisor vtsr => ?guest, fun s => ?refused,
    encode_sret⟩
  case host =>
    refine ⟨_, exec_sret_of_host (State.sretPermit_ok_of_host present host allowed) host, ?_⟩
    have same := s.returnFromS.completeReturn_same s.s.epc
    have width := s.returnFromS.completeReturn_xlen s.s.epc
    have reservation := s.returnFromS.completeReturn_reservation s.s.epc
    generalize s.returnFromS.completeReturn s.s.epc = t at same width reservation ⊢
    refine ⟨?priv, ?virt, ?mstatus, ?hypervisor, ?pc, reservation, ?frame⟩
    case priv => rw [same]; rfl
    case virt => rw [same]; exact s.returnFromS_virt
    case mstatus => rw [same]; rfl
    case hypervisor => rw [same]; rfl
    case pc => rw [width, same]; rfl
    case frame => rw [same]; rfl
  case guest =>
    refine ⟨_, exec_sret_of_guest (State.sretPermit_ok_of_guest present guest supervisor vtsr) guest, ?_⟩
    have same := s.returnFromVS.completeReturn_same s.vs.epc
    have width := s.returnFromVS.completeReturn_xlen s.vs.epc
    have reservation := s.returnFromVS.completeReturn_reservation s.vs.epc
    generalize s.returnFromVS.completeReturn s.vs.epc = t at same width reservation ⊢
    refine ⟨?priv, ?virt, ?status, ?pc, reservation, ?frame⟩
    case priv => rw [same]; rfl
    case virt => rw [same]; exact guest
    case status => rw [same]; rfl
    case pc => rw [width, same]; rfl
    case frame => rw [same]; rfl
  case refused =>
    exact ⟨fun refused => exec_sret_of_illegal (State.sretPermit_illegal refused),
      fun present guest refused => exec_sret_of_virt (State.sretPermit_virt present guest refused)⟩

end Sys2Proof.Machine
end

section
/-! Where the virtual-machine loads and stores do not execute: each asks one permission before it acts, and the exception
it then takes is the one the permission names (44_hypervisor_instructions.md R821, R822). -/

namespace Sys2Proof.Machine

open Sys2Proof

/-! ## What a virtual-machine load or store asks -/

section
variable (s : State) (rd rs1 rs2 : RegIdx)

/-- Each virtual-machine load is a load with V = 1, of its width, sign and permission, where it may execute. -/
theorem exec_guestLoad : ∀ r ∈ guestLoads, exec (r.1 rd rs1) s =
    s.guarded (encode (r.1 rd rs1)) (s.hlvPermit r.2.2.2.1) fun s =>
      s.loadTo (encode (r.1 rd rs1)) { kind := .load, n := r.2.1, hlv := true, hlvx := r.2.2.2.2 } rd (s.baseAddr rs1)
        (if r.2.2.1 then sextBytes r.2.1 else zextBytes r.2.1) := by
  simp only [guestLoads, List.forall_mem_cons]
  exact ⟨rfl, rfl, rfl, rfl, rfl, rfl, rfl, rfl, rfl, List.forall_mem_nil _⟩

/-- Each virtual-machine store is a store with V = 1, of its width, where it may execute. -/
theorem exec_guestStore : ∀ r ∈ guestStores, exec (r.1 rs1 rs2) s =
    s.guarded (encode (r.1 rs1 rs2)) (s.hlvPermit r.2.2) fun s =>
      s.storeFrom (encode (r.1 rs1 rs2)) { kind := .store, n := r.2.1, hlv := true } (s.baseAddr rs1) (s.src rs2) := by
  simp only [guestStores, List.forall_mem_cons]
  exact ⟨rfl, rfl, rfl, rfl, List.forall_mem_nil _⟩

/-- Whether it loads or stores, a virtual-machine access does nothing before its permission. -/
theorem exec_guestAccess :
    ∀ row ∈ (guestLoads.map fun r => (r.1 rd rs1, r.2.2.2.1)) ++ (guestStores.map fun r => (r.1 rs1 rs2, r.2.2)),
      ∃ act, exec row.1 s = s.guarded (encode row.1) (s.hlvPermit row.2) act := by
  rw [List.forall_mem_append, List.forall_mem_map, List.forall_mem_map]
  exact ⟨fun r hr => ⟨_, exec_guestLoad s rd rs1 r hr⟩, fun r hr => ⟨_, exec_guestStore s rs1 rs2 r hr⟩⟩

end

/-! ## Where the permission is refused (R821) -/

section
variable {s : State} {rv64 : Bool}

theorem State.hlvPermit_of_noH (absent : s.hasH = false) : s.hlvPermit rv64 = .illegal := by
  rw [State.hlvPermit, absent]
  rfl

/-- The XLEN of the executing mode decides on the RV64-only forms, and does so before V (R822, D52). -/
theorem State.hlvPermit_of_narrow (wide : rv64 = true) (narrow : s.xlen = .x32) : s.hlvPermit rv64 = .illegal := by
  rw [State.hlvPermit, wide, narrow]
  exact ite_self _

theorem State.hlvPermit_of_guest (present : s.hasH = true) (wide : rv64 = true → s.xlen = .x64)
    (guest : s.virt = true) : s.hlvPermit rv64 = .virt := by
  have fits : (rv64 && decide (s.xlen = .x32)) = false := by
    cases rv64
    · rfl
    · rw [wide rfl]; rfl
  rw [State.hlvPermit, present, fits, guest]
  rfl

/-- U-mode needs HU for every form; an RV64-only one at XLEN = 32 is refused by the same exception. -/
theorem State.hlvPermit_of_user (host : s.virt = false) (user : s.priv = .user) (noHu : s.h.status.hu = false) :
    s.hlvPermit rv64 = .illegal := by
  simp [State.hlvPermit, host, user, noHu]

end

/-- Settles O38: each access asks its permission first, and each clause names what the permission answers. -/
theorem guestAccessPermission : Obligations.GuestAccessPermission := by
  unfold Obligations.GuestAccessPermission
  intro s rd rs1 rs2 row hrow
  obtain ⟨act, asks⟩ := exec_guestAccess s rd rs1 rs2 row hrow
  have illegal (refused : s.hlvPermit row.2 = .illegal) : exec row.1 s = .next (s.takeIllegal (encode row.1)) := by
    rw [asks, refused, State.guarded_illegal]
  have virtual (refused : s.hlvPermit row.2 = .virt) : exec row.1 s = .next (s.takeVirtual (encode row.1)) := by
    rw [asks, refused, State.guarded_virt]
  exact ⟨fun absent => illegal (State.hlvPermit_of_noH absent),
    fun _ wide narrow => illegal (State.hlvPermit_of_narrow wide narrow),
    fun present wide guest => virtual (State.hlvPermit_of_guest present wide guest),
    fun _ host user noHu => illegal (State.hlvPermit_of_user host user noHu)⟩

end Sys2Proof.Machine
end

section
/-! The decoder and the encoder are inverse to each other (30_encoding.md R680 to R684, R694; 45_base_isa_subset.md
R1001 to R1005). A word is its six fields, so for each format "this word encodes these operands" is the conjunction of
what the decoder's field functions read; both directions of the round trip rest on those equivalences. -/

namespace Sys2Proof.Machine

open Sys2Proof

/-! ## Fields put together -/

/-- Two fields put together are a wider field exactly when each is its part of it. -/
theorem append_eq_extractLsb'_iff {n i j k : Nat} {x : BitVec n} {a : BitVec j} {b : BitVec k} :
    a ++ b = x.extractLsb' i (j + k) ↔ a = x.extractLsb' (i + k) j ∧ b = x.extractLsb' i k := by
  rw [← BitVec.extractLsb'_append_extractLsb'_eq_extractLsb' rfl]
  constructor
  · intro same
    have high := congrArg (BitVec.extractLsb' k j) same
    have low := congrArg (BitVec.extractLsb' 0 k) same
    rw [BitVec.extractLsb'_append_eq_left, BitVec.extractLsb'_append_eq_left] at high
    rw [BitVec.extractLsb'_append_eq_right, BitVec.extractLsb'_append_eq_right] at low
    exact ⟨high, low⟩
  · rintro ⟨rfl, rfl⟩
    rfl

/-- A one-bit field is zero exactly when its bit is. -/
theorem zero_eq_extractLsb'_one_iff {n i : Nat} {x : BitVec n} : 0#1 = x.extractLsb' i 1 ↔ x.getLsbD i = false := by
  constructor
  · intro zero
    have bit := congrArg (BitVec.getLsbD · 0) zero
    simpa using bit.symm
  · intro zero
    ext j small
    obtain rfl : j = 0 := by omega
    simp [zero]

/-! ## The formats (R681, R1001) -/

section
variable {rs2 rs1 : RegIdx} {f3 : BitVec 3} {rd : RegIdx} {op : BitVec 7} {w : BitVec 32}

theorem encR_eq_iff {f7 : BitVec 7} :
    encR f7 rs2 rs1 f3 rd op = w ↔
      funct7Of w = f7 ∧ rs2Of w = rs2 ∧ rs1Of w = rs1 ∧ funct3Of w = f3 ∧ rdOf w = rd ∧ opcodeOf w = op :=
  calc encR f7 rs2 rs1 f3 rd op = w
    _ ↔ f7 ++ rs2 ++ rs1 ++ f3 ++ rd ++ op = w.extractLsb' 0 32 := by rw [BitVec.extractLsb'_eq_self, encR]
    _ ↔ f7 = funct7Of w ∧ rs2 = rs2Of w ∧ rs1 = rs1Of w ∧ f3 = funct3Of w ∧ rd = rdOf w ∧ op = opcodeOf w := by
      iterate 5 rw [append_eq_extractLsb'_iff]
      simp only [and_assoc]
      rfl
    _ ↔ _ := by simp only [eq_comm]

theorem immIOf_eq_iff {imm : BitVec 12} :
    immIOf w = imm ↔ funct7Of w = imm.extractLsb' 5 7 ∧ rs2Of w = imm.extractLsb' 0 5 :=
  calc immIOf w = imm
    _ ↔ funct7Of w ++ rs2Of w = imm.extractLsb' 0 12 := by rw [BitVec.extractLsb'_eq_self, immIOf]
    _ ↔ _ := append_eq_extractLsb'_iff

theorem immSOf_eq_iff {imm : BitVec 12} :
    immSOf w = imm ↔ funct7Of w = imm.extractLsb' 5 7 ∧ rdOf w = imm.extractLsb' 0 5 :=
  calc immSOf w = imm
    _ ↔ funct7Of w ++ rdOf w = imm.extractLsb' 0 12 := by rw [BitVec.extractLsb'_eq_self, immSOf]
    _ ↔ _ := append_eq_extractLsb'_iff

theorem immUOf_eq_iff {imm : BitVec 20} :
    immUOf w = imm ↔ funct7Of w = imm.extractLsb' 13 7 ∧ rs2Of w = imm.extractLsb' 8 5
      ∧ rs1Of w = imm.extractLsb' 3 5 ∧ funct3Of w = imm.extractLsb' 0 3 :=
  calc immUOf w = imm
    _ ↔ funct7Of w ++ rs2Of w ++ rs1Of w ++ funct3Of w = imm.extractLsb' 0 20 := by
      rw [BitVec.extractLsb'_eq_self, immUOf]
    _ ↔ _ := by
      iterate 3 rw [append_eq_extractLsb'_iff]
      simp only [and_assoc]

theorem immBOf_eq_iff {off : BitVec 13} :
    immBOf w = off ↔ (funct7Of w).extractLsb' 6 1 = off.extractLsb' 12 1
      ∧ (rdOf w).extractLsb' 0 1 = off.extractLsb' 11 1
      ∧ (funct7Of w).extractLsb' 0 6 = off.extractLsb' 5 6 ∧ (rdOf w).extractLsb' 1 4 = off.extractLsb' 1 4
      ∧ off.getLsbD 0 = false :=
  calc immBOf w = off
    _ ↔ (funct7Of w).extractLsb' 6 1 ++ (rdOf w).extractLsb' 0 1 ++ (funct7Of w).extractLsb' 0 6
        ++ (rdOf w).extractLsb' 1 4 ++ 0#1 = off.extractLsb' 0 13 := by rw [BitVec.extractLsb'_eq_self, immBOf]
    _ ↔ _ := by
      iterate 4 rw [append_eq_extractLsb'_iff]
      simp only [and_assoc, zero_eq_extractLsb'_one_iff]

theorem immJOf_eq_iff {off : BitVec 21} :
    immJOf w = off ↔ (funct7Of w).extractLsb' 6 1 = off.extractLsb' 20 1 ∧ rs1Of w = off.extractLsb' 15 5
      ∧ funct3Of w = off.extractLsb' 12 3 ∧ (rs2Of w).extractLsb' 0 1 = off.extractLsb' 11 1
      ∧ (funct7Of w).extractLsb' 0 6 = off.extractLsb' 5 6 ∧ (rs2Of w).extractLsb' 1 4 = off.extractLsb' 1 4
      ∧ off.getLsbD 0 = false :=
  calc immJOf w = off
    _ ↔ (funct7Of w).extractLsb' 6 1 ++ rs1Of w ++ funct3Of w ++ (rs2Of w).extractLsb' 0 1
        ++ (funct7Of w).extractLsb' 0 6 ++ (rs2Of w).extractLsb' 1 4 ++ 0#1 = off.extractLsb' 0 21 := by
      rw [BitVec.extractLsb'_eq_self, immJOf]
    _ ↔ _ := by
      iterate 6 rw [append_eq_extractLsb'_iff]
      simp only [and_assoc, zero_eq_extractLsb'_one_iff]

theorem funct7_eq_append_iff {f7 : BitVec 7} {a : BitVec 1} {b : BitVec 6} :
    f7 = a ++ b ↔ a = f7.extractLsb' 6 1 ∧ b = f7.extractLsb' 0 6 :=
  calc f7 = a ++ b
    _ ↔ a ++ b = f7.extractLsb' 0 7 := by rw [BitVec.extractLsb'_eq_self, eq_comm]
    _ ↔ _ := append_eq_extractLsb'_iff

theorem regIdx_eq_append_iff {r : RegIdx} {a : BitVec 4} {b : BitVec 1} :
    r = a ++ b ↔ a = r.extractLsb' 1 4 ∧ b = r.extractLsb' 0 1 :=
  calc r = a ++ b
    _ ↔ a ++ b = r.extractLsb' 0 5 := by rw [BitVec.extractLsb'_eq_self, eq_comm]
    _ ↔ _ := append_eq_extractLsb'_iff

theorem immIOf_eq_shift_iff {f6 shamt : BitVec 6} : immIOf w = f6 ++ shamt ↔ f6 = funct6Of w ∧ shamt = shamtOf w :=
  calc immIOf w = f6 ++ shamt
    _ ↔ f6 ++ shamt = (immIOf w).extractLsb' 0 12 := by rw [BitVec.extractLsb'_eq_self, eq_comm]
    _ ↔ _ := append_eq_extractLsb'_iff

theorem immIOf_eq_fence_iff {fm pred succ : BitVec 4} :
    immIOf w = fm ++ pred ++ succ ↔ fm = (immIOf w).extractLsb' 8 4 ∧ pred = (immIOf w).extractLsb' 4 4
      ∧ succ = (immIOf w).extractLsb' 0 4 :=
  calc immIOf w = fm ++ pred ++ succ
    _ ↔ fm ++ pred ++ succ = (immIOf w).extractLsb' 0 12 := by rw [BitVec.extractLsb'_eq_self, eq_comm]
    _ ↔ _ := by rw [append_eq_extractLsb'_iff, append_eq_extractLsb'_iff, and_assoc]

theorem encI_eq_iff {imm : BitVec 12} :
    encI imm rs1 f3 rd op = w ↔
      immIOf w = imm ∧ rs1Of w = rs1 ∧ funct3Of w = f3 ∧ rdOf w = rd ∧ opcodeOf w = op := by
  rw [encI, encR_eq_iff, immIOf_eq_iff]
  grind

theorem encS_eq_iff {imm : BitVec 12} :
    encS imm rs1 rs2 f3 = w ↔
      immSOf w = imm ∧ rs2Of w = rs2 ∧ rs1Of w = rs1 ∧ funct3Of w = f3 ∧ opcodeOf w = 0b0100011#7 := by
  rw [encS, encR_eq_iff, immSOf_eq_iff]
  grind

theorem encU_eq_iff {imm : BitVec 20} :
    encU imm rd op = w ↔ immUOf w = imm ∧ rdOf w = rd ∧ opcodeOf w = op := by
  rw [encU, encR_eq_iff, immUOf_eq_iff]
  grind

/-- The B format holds every bit of an offset but bit 0. -/
theorem encB_eq_iff {off : BitVec 13} :
    encB off rs1 rs2 f3 = w ∧ off.getLsbD 0 = false ↔
      immBOf w = off ∧ rs2Of w = rs2 ∧ rs1Of w = rs1 ∧ funct3Of w = f3 ∧ opcodeOf w = 0b1100011#7 := by
  rw [encB, encR_eq_iff, funct7_eq_append_iff, regIdx_eq_append_iff, immBOf_eq_iff]
  grind

/-- The J format holds every bit of an offset but bit 0. -/
theorem encJ_eq_iff {off : BitVec 21} :
    encJ off rd = w ∧ off.getLsbD 0 = false ↔ immJOf w = off ∧ rdOf w = rd ∧ opcodeOf w = 0b1101111#7 := by
  rw [encJ, encR_eq_iff, funct7_eq_append_iff, regIdx_eq_append_iff, immJOf_eq_iff]
  grind

end

/-! ## A decoded word is the encoding of its instruction (R684) -/

/-- The instruction answered for a word, if any, is well formed and encoded by the word. -/
def AnswersEncoded (w : BitVec 32) (answer : Option Instr) : Prop :=
  ∀ i, answer = some i → encode i = w ∧ i.WellFormed = true

/-! A decoder is a chain of comparisons, each with the answer of one row of the opcode table: `ite` takes the chain
apart, and a row's answer is encoded by the word because the fields of its format are compared or read. -/

section
variable {w : BitVec 32}

namespace AnswersEncoded

theorem none : AnswersEncoded w none := nofun

theorem some {i : Instr} (word : encode i = w) (wf : i.WellFormed = true) : AnswersEncoded w (some i) := by
  rintro _ ⟨⟩
  exact ⟨word, wf⟩

theorem ite {c : Prop} [Decidable c] {a b : Option Instr} (yes : c → AnswersEncoded w a)
    (no : ¬c → AnswersEncoded w b) : AnswersEncoded w (if c then a else b) := by
  split
  · exact yes ‹_›
  · exact no ‹_›

/-- A row of the R format. -/
theorem rowR {i : Instr} {f7 : BitVec 7} {f3 : BitVec 3} {op : BitVec 7}
    (word : encode i = encR f7 (rs2Of w) (rs1Of w) f3 (rdOf w) op) (wf : i.WellFormed = true)
    (h7 : funct7Of w = f7) (hop : opcodeOf w = op) (h3 : funct3Of w = f3) : AnswersEncoded w (.some i) :=
  some (word.trans (encR_eq_iff.2 ⟨h7, rfl, rfl, h3, rfl, hop⟩)) wf

/-- A row of the I format. -/
theorem rowI {i : Instr} {f3 : BitVec 3} {op : BitVec 7}
    (word : encode i = encI (immIOf w) (rs1Of w) f3 (rdOf w) op) (wf : i.WellFormed = true)
    (hop : opcodeOf w = op) (h3 : funct3Of w = f3) : AnswersEncoded w (.some i) :=
  some (word.trans (encI_eq_iff.2 ⟨rfl, rfl, h3, rfl, hop⟩)) wf

/-- A row of the B format, whose offset is even. -/
theorem rowB {i : Instr} {f3 : BitVec 3} (word : encode i = encB (immBOf w) (rs1Of w) (rs2Of w) f3)
    (wf : i.WellFormed = !(immBOf w).getLsbD 0) (hop : opcodeOf w = 0b1100011#7) (h3 : funct3Of w = f3) :
    AnswersEncoded w (.some i) := by
  obtain ⟨encoded, even⟩ := encB_eq_iff.2 ⟨rfl, rfl, rfl, h3, hop⟩
  exact some (word.trans encoded) (by rw [wf, even]; rfl)

end AnswersEncoded

theorem decodePriv_answersEncoded (hop : opcodeOf w = 0b1110011#7) (h3 : funct3Of w = 0) :
    AnswersEncoded w (decodePriv w) := by
  refine .ite (fun _ => .none) fun hrd => ?_
  have row {i : Instr} {f7 : BitVec 7} {rs2 rs1 : RegIdx} (word : encode i = encPriv f7 rs2 rs1)
      (wf : i.WellFormed = true) (h2 : rs2Of w = rs2) (h1 : rs1Of w = rs1) (h7 : funct7Of w = f7) :
      AnswersEncoded w (some i) :=
    .some (word.trans (encR_eq_iff.2 ⟨h7, h2, h1, h3, not_not.1 hrd, hop⟩)) wf
  iterate 6 refine .ite (row rfl rfl rfl rfl) fun _ => ?_
  refine .ite (fun _ => .none) fun h1 => ?_
  have plain {i : Instr} {f7 : BitVec 7} {rs2 : RegIdx} (word : encode i = encPriv f7 rs2 0)
      (wf : i.WellFormed = true) (h7 : funct7Of w = f7) (h2 : rs2Of w = rs2) : AnswersEncoded w (some i) :=
    row word wf h2 (not_not.1 h1) h7
  refine .ite (fun h7 => .ite (plain rfl rfl h7) fun _ => .ite (plain rfl rfl h7) fun _ => .none) fun _ => ?_
  refine .ite (fun h7 => .ite (plain rfl rfl h7) fun _ => .ite (plain rfl rfl h7) fun _ => .none) fun _ => ?_
  refine .ite (fun h7 => .ite (plain rfl rfl h7) fun _ => .none) fun _ => ?_
  exact .ite (fun h7 => .ite (plain rfl rfl h7) fun _ => .ite (plain rfl rfl h7) fun _ => .none) fun _ => .none

theorem decodePrivM_answersEncoded (hop : opcodeOf w = 0b1110011#7) (h3 : funct3Of w = 4) :
    AnswersEncoded w (decodePrivM w) := by
  have row {i : Instr} {f7 : BitVec 7} {rs2 rd : RegIdx} (word : encode i = encPrivM f7 rs2 (rs1Of w) rd)
      (wf : i.WellFormed = true) (hrd : rdOf w = rd) (h7 : funct7Of w = f7) (h2 : rs2Of w = rs2) :
      AnswersEncoded w (some i) :=
    .some (word.trans (encR_eq_iff.2 ⟨h7, h2, rfl, h3, hrd, hop⟩)) wf
  have load {i : Instr} {f7 : BitVec 7} {rs2 : RegIdx} (word : encode i = encPrivM f7 rs2 (rs1Of w) (rdOf w))
      (wf : i.WellFormed = true) (h7 : funct7Of w = f7) (h2 : rs2Of w = rs2) : AnswersEncoded w (some i) :=
    row word wf rfl h7 h2
  refine .ite (fun h7 => .ite (load rfl rfl h7) fun _ => .ite (load rfl rfl h7) fun _ => .none) fun _ => ?_
  iterate 2
    refine .ite (fun h7 => .ite (load rfl rfl h7) fun _ => .ite (load rfl rfl h7) fun _ =>
      .ite (load rfl rfl h7) fun _ => .none) fun _ => ?_
  refine .ite (fun h7 => .ite (load rfl rfl h7) fun _ => .none) fun _ => .ite (fun _ => .none) fun hrd => ?_
  have store {i : Instr} {f7 : BitVec 7} (word : encode i = encPrivM f7 (rs2Of w) (rs1Of w) 0)
      (wf : i.WellFormed = true) (h7 : funct7Of w = f7) : AnswersEncoded w (some i) :=
    row word wf (not_not.1 hrd) h7 rfl
  iterate 4 refine .ite (store rfl rfl) fun _ => ?_
  exact .none

/-- A `funct3` that is none of the first seven is the last. -/
theorem funct3_eq_seven : ∀ f : BitVec 3, f ≠ 0 → f ≠ 1 → f ≠ 2 → f ≠ 3 → f ≠ 4 → f ≠ 5 → f ≠ 6 → f = 7 := by
  bv_omega

theorem decodeSystem_answersEncoded (hop : opcodeOf w = 0b1110011#7) : AnswersEncoded w (decodeSystem w) :=
  .ite (decodePriv_answersEncoded hop) fun n0 =>
  .ite (.rowI rfl rfl hop) fun n1 => .ite (.rowI rfl rfl hop) fun n2 => .ite (.rowI rfl rfl hop) fun n3 =>
  .ite (decodePrivM_answersEncoded hop) fun n4 =>
  .ite (.rowI rfl rfl hop) fun n5 => .ite (.rowI rfl rfl hop) fun n6 =>
  .rowI rfl rfl hop (funct3_eq_seven _ n0 n1 n2 n3 n4 n5 n6)

theorem decodeBranch_answersEncoded (hop : opcodeOf w = 0b1100011#7) : AnswersEncoded w (decodeBranch w) := by
  unfold decodeBranch
  iterate 6 refine .ite (.rowB rfl rfl hop) fun _ => ?_
  exact .none

theorem decodeLoad_answersEncoded (hop : opcodeOf w = 0b0000011#7) : AnswersEncoded w (decodeLoad w) := by
  unfold decodeLoad
  iterate 7 refine .ite (.rowI rfl rfl hop) fun _ => ?_
  exact .none

theorem decodeStore_answersEncoded (hop : opcodeOf w = 0b0100011#7) : AnswersEncoded w (decodeStore w) := by
  have row {i : Instr} {f3 : BitVec 3} (word : encode i = encS (immSOf w) (rs1Of w) (rs2Of w) f3)
      (wf : i.WellFormed = true) (h3 : funct3Of w = f3) : AnswersEncoded w (some i) :=
    .some (word.trans (encS_eq_iff.2 ⟨rfl, rfl, rfl, h3, hop⟩)) wf
  unfold decodeStore
  iterate 4 refine .ite (row rfl rfl) fun _ => ?_
  exact .none

theorem decodeOpImm_answersEncoded (hop : opcodeOf w = 0b0010011#7) : AnswersEncoded w (decodeOpImm w) := by
  have shift {i : Instr} {f6 : BitVec 6} {f3 : BitVec 3}
      (word : encode i = encI (f6 ++ shamtOf w) (rs1Of w) f3 (rdOf w) 0b0010011#7) (wf : i.WellFormed = true)
      (h3 : funct3Of w = f3) (h6 : funct6Of w = f6) : AnswersEncoded w (some i) :=
    .some (word.trans (encI_eq_iff.2 ⟨immIOf_eq_shift_iff.2 ⟨h6.symm, rfl⟩, rfl, h3, rfl, hop⟩)) wf
  exact .ite (.rowI rfl rfl hop) fun n0 =>
    .ite (fun h3 => .ite (shift rfl rfl h3) fun _ => .none) fun n1 =>
    .ite (.rowI rfl rfl hop) fun n2 => .ite (.rowI rfl rfl hop) fun n3 => .ite (.rowI rfl rfl hop) fun n4 =>
    .ite (fun h3 => .ite (shift rfl rfl h3) fun _ => .ite (shift rfl rfl h3) fun _ => .none) fun n5 =>
    .ite (.rowI rfl rfl hop) fun n6 => .rowI rfl rfl hop (funct3_eq_seven _ n0 n1 n2 n3 n4 n5 n6)

theorem decodeOp_answersEncoded (hop : opcodeOf w = 0b0110011#7) : AnswersEncoded w (decodeOp w) := by
  refine .ite (fun h7 => ?_) fun _ => .ite (fun h7 => ?_) fun _ => .none
  · exact .ite (.rowR rfl rfl h7 hop) fun n0 => .ite (.rowR rfl rfl h7 hop) fun n1 =>
      .ite (.rowR rfl rfl h7 hop) fun n2 => .ite (.rowR rfl rfl h7 hop) fun n3 =>
      .ite (.rowR rfl rfl h7 hop) fun n4 => .ite (.rowR rfl rfl h7 hop) fun n5 =>
      .ite (.rowR rfl rfl h7 hop) fun n6 => .rowR rfl rfl h7 hop (funct3_eq_seven _ n0 n1 n2 n3 n4 n5 n6)
  · exact .ite (.rowR rfl rfl h7 hop) fun _ => .ite (.rowR rfl rfl h7 hop) fun _ => .none

theorem decodeOpW_answersEncoded (hop : opcodeOf w = 0b0111011#7) : AnswersEncoded w (decodeOpW w) := by
  refine .ite (fun h3 => ?_) fun _ => .none
  exact .ite (fun h7 => .rowR rfl rfl h7 hop h3) fun _ => .ite (fun h7 => .rowR rfl rfl h7 hop h3) fun _ => .none

theorem decodeMiscMem_answersEncoded (hop : opcodeOf w = 0b0001111#7) : AnswersEncoded w (decodeMiscMem w) :=
  .ite (fun h3 => .some (encI_eq_iff.2 ⟨immIOf_eq_fence_iff.2 ⟨rfl, rfl, rfl⟩, rfl, h3, rfl, hop⟩) rfl) fun _ =>
    .ite (.rowI rfl rfl hop) fun _ => .none

theorem decodeWord_answersEncoded (w : BitVec 32) : AnswersEncoded w (decodeWord w) := by
  have upper {i : Instr} {op : BitVec 7} (word : encode i = encU (immUOf w) (rdOf w) op) (wf : i.WellFormed = true)
      (hop : opcodeOf w = op) : AnswersEncoded w (some i) :=
    .some (word.trans (encU_eq_iff.2 ⟨rfl, rfl, hop⟩)) wf
  have jump (hop : opcodeOf w = 0b1101111#7) : AnswersEncoded w (some (.jal (rdOf w) (immJOf w))) := by
    obtain ⟨encoded, even⟩ := encJ_eq_iff.2 ⟨rfl, rfl, hop⟩
    exact .some encoded (by rw [Instr.WellFormed, even]; rfl)
  exact .ite decodeSystem_answersEncoded fun _ =>
    .ite (upper rfl rfl) fun _ => .ite (upper rfl rfl) fun _ =>
    .ite jump fun _ => .ite (fun hop => .ite (.rowI rfl rfl hop) fun _ => .none) fun _ =>
    .ite decodeBranch_answersEncoded fun _ =>
    .ite decodeLoad_answersEncoded fun _ => .ite decodeStore_answersEncoded fun _ =>
    .ite decodeOpImm_answersEncoded fun _ => .ite decodeOp_answersEncoded fun _ =>
    .ite (fun hop => .ite (.rowI rfl rfl hop) fun _ => .none) fun _ => .ite decodeOpW_answersEncoded fun _ =>
    .ite decodeMiscMem_answersEncoded fun _ => .none

end

/-- Settles O2: every row of the decoder answers an instruction whose encoding has the fields the row compared or read,
and a word is its fields. -/
theorem encodeDecodedWord : Obligations.EncodeDecodedWord := by
  unfold Obligations.EncodeDecodedWord
  exact decodeWord_answersEncoded

/-! ## An encoded instruction is decoded (R680 to R683, R1001) -/

section
variable (rs2 rs1 : RegIdx) (f3 : BitVec 3) (rd : RegIdx) (op : BitVec 7)

theorem fieldsOf_encR (f7 : BitVec 7) :
    funct7Of (encR f7 rs2 rs1 f3 rd op) = f7 ∧ rs2Of (encR f7 rs2 rs1 f3 rd op) = rs2
      ∧ rs1Of (encR f7 rs2 rs1 f3 rd op) = rs1 ∧ funct3Of (encR f7 rs2 rs1 f3 rd op) = f3
      ∧ rdOf (encR f7 rs2 rs1 f3 rd op) = rd ∧ opcodeOf (encR f7 rs2 rs1 f3 rd op) = op :=
  encR_eq_iff.1 rfl

theorem fieldsOf_encI (imm : BitVec 12) :
    immIOf (encI imm rs1 f3 rd op) = imm ∧ rs1Of (encI imm rs1 f3 rd op) = rs1
      ∧ funct3Of (encI imm rs1 f3 rd op) = f3 ∧ rdOf (encI imm rs1 f3 rd op) = rd
      ∧ opcodeOf (encI imm rs1 f3 rd op) = op :=
  encI_eq_iff.1 rfl

theorem shiftOf_encI (f6 shamt : BitVec 6) :
    funct6Of (encI (f6 ++ shamt) rs1 f3 rd op) = f6 ∧ shamtOf (encI (f6 ++ shamt) rs1 f3 rd op) = shamt := by
  obtain ⟨high, low⟩ := immIOf_eq_shift_iff.1 (fieldsOf_encI rs1 f3 rd op (f6 ++ shamt)).1
  exact ⟨high.symm, low.symm⟩

theorem fenceOf_encI (fm pred succ : BitVec 4) :
    (immIOf (encI (fm ++ pred ++ succ) rs1 f3 rd op)).extractLsb' 8 4 = fm
      ∧ (immIOf (encI (fm ++ pred ++ succ) rs1 f3 rd op)).extractLsb' 4 4 = pred
      ∧ (immIOf (encI (fm ++ pred ++ succ) rs1 f3 rd op)).extractLsb' 0 4 = succ := by
  obtain ⟨mode, before, after⟩ := immIOf_eq_fence_iff.1 (fieldsOf_encI rs1 f3 rd op (fm ++ pred ++ succ)).1
  exact ⟨mode.symm, before.symm, after.symm⟩

theorem fieldsOf_encS (imm : BitVec 12) :
    immSOf (encS imm rs1 rs2 f3) = imm ∧ rs2Of (encS imm rs1 rs2 f3) = rs2 ∧ rs1Of (encS imm rs1 rs2 f3) = rs1
      ∧ funct3Of (encS imm rs1 rs2 f3) = f3 ∧ opcodeOf (encS imm rs1 rs2 f3) = 0b0100011#7 :=
  encS_eq_iff.1 rfl

theorem fieldsOf_encU (imm : BitVec 20) :
    immUOf (encU imm rd op) = imm ∧ rdOf (encU imm rd op) = rd ∧ opcodeOf (encU imm rd op) = op :=
  encU_eq_iff.1 rfl

theorem fieldsOf_encB (off : BitVec 13) (even : off.getLsbD 0 = false) :
    immBOf (encB off rs1 rs2 f3) = off ∧ rs2Of (encB off rs1 rs2 f3) = rs2 ∧ rs1Of (encB off rs1 rs2 f3) = rs1
      ∧ funct3Of (encB off rs1 rs2 f3) = f3 ∧ opcodeOf (encB off rs1 rs2 f3) = 0b1100011#7 :=
  encB_eq_iff.1 ⟨rfl, even⟩

theorem fieldsOf_encJ (off : BitVec 21) (even : off.getLsbD 0 = false) :
    immJOf (encJ off rd) = off ∧ rdOf (encJ off rd) = rd ∧ opcodeOf (encJ off rd) = 0b1101111#7 :=
  encJ_eq_iff.1 ⟨rfl, even⟩

end

theorem decodeWord_encode {i : Instr} (wf : i.WellFormed = true) : decodeWord (encode i) = some i := by
  cases i
  case ecall | ebreak | sret | mret | wfi | sfenceVma | sinvalVma | sfenceWInval | sfenceInvalIr | hfenceVvma
      | hfenceGvma | hinvalVvma | hinvalGvma =>
    simp [encode, encPriv, decodeWord, decodeSystem, decodePriv, fieldsOf_encR]
  case hlvB | hlvBu | hlvH | hlvHu | hlvW | hlvWu | hlvD | hlvxHu | hlvxWu | hsvB | hsvH | hsvW | hsvD =>
    simp [encode, encPrivM, decodeWord, decodeSystem, decodePrivM, fieldsOf_encR]
  case csrrw | csrrs | csrrc | csrrwi | csrrsi | csrrci =>
    simp [encode, decodeWord, decodeSystem, fieldsOf_encI]
  case lui | auipc => simp [encode, decodeWord, fieldsOf_encU]
  case jal off =>
    have even : off.getLsbD 0 = false := by simpa [Instr.WellFormed] using wf
    simp [encode, decodeWord, fieldsOf_encJ _ _ even]
  case beq off | bne off | blt off | bge off | bltu off | bgeu off =>
    have even : off.getLsbD 0 = false := by simpa [Instr.WellFormed] using wf
    simp [encode, decodeWord, decodeBranch, fieldsOf_encB _ _ _ _ even]
  case jalr | addiw => simp [encode, decodeWord, fieldsOf_encI]
  case lb | lh | lw | ld | lbu | lhu | lwu => simp [encode, decodeWord, decodeLoad, fieldsOf_encI]
  case sb | sh | sw | sd => simp [encode, decodeWord, decodeStore, fieldsOf_encS]
  case addi | slti | sltiu | xori | ori | andi => simp [encode, decodeWord, decodeOpImm, fieldsOf_encI]
  case slli | srli | srai => simp [encode, decodeWord, decodeOpImm, fieldsOf_encI, shiftOf_encI]
  case add | sub | sll | slt | sltu | xor | srl | sra | or | and =>
    simp [encode, decodeWord, decodeOp, fieldsOf_encR]
  case addw | subw => simp [encode, decodeWord, decodeOpW, fieldsOf_encR]
  case fence fm pred succ rs1 rd =>
    simpa [encode, decodeWord, decodeMiscMem, fieldsOf_encI] using fenceOf_encI rs1 0 rd 0b0001111#7 fm pred succ
  case fenceI => simp [encode, decodeWord, decodeMiscMem, fieldsOf_encI]

/-- A word that decodes has 11 in its low bits, so it is read as one 32-bit word. -/
theorem opcode_low_of_decodeWord {w : BitVec 32} {i : Instr} (decoded : decodeWord w = some i) :
    (opcodeOf w).extractLsb' 0 2 = 0b11#2 := by
  by_contra low
  have undefined : decodeWord w = none := by
    have other (op : BitVec 7) (h : op.extractLsb' 0 2 = 0b11#2) : opcodeOf w ≠ op := fun same => low (same ▸ h)
    simp [decodeWord, other]
  simp [undefined] at decoded

theorem halfOfBytes_low (w : BitVec 32) : halfOfBytes (w.extractLsb' 0 8) (w.extractLsb' 8 8) = w.extractLsb' 0 16 :=
  BitVec.extractLsb'_append_extractLsb'_eq_extractLsb' rfl

theorem wordOfBytes_bytes (w : BitVec 32) :
    wordOfBytes (w.extractLsb' 0 8) (w.extractLsb' 8 8) (w.extractLsb' 16 8) (w.extractLsb' 24 8) = w := by
  unfold wordOfBytes
  iterate 3 rw [BitVec.extractLsb'_append_extractLsb'_eq_extractLsb' (by rfl)]
  exact BitVec.extractLsb'_eq_self

theorem isCompressed_low (w : BitVec 32) :
    isCompressed (w.extractLsb' 0 16) = ((opcodeOf w).extractLsb' 0 2 != 0b11#2) := by
  rw [isCompressed, opcodeOf, BitVec.extractLsb'_extractLsb'_of_le (by decide),
    BitVec.extractLsb'_extractLsb'_of_le (by decide)]

theorem decodeBytes_bytesOfWord {w : BitVec 32} {i : Instr} (decoded : decodeWord w = some i) :
    decodeBytes (bytesOfWord w) = .instr i 4 := by
  have long : isCompressed (w.extractLsb' 0 16) = false := by
    rw [isCompressed_low, opcode_low_of_decodeWord decoded]
    rfl
  simp [decodeBytes, bytesOfWord, halfOfBytes_low, long, wordOfBytes_bytes, decode32, decoded]

/-- Settles O1: the row of an instruction's format answers it from the fields of its word, which are the operands it was
encoded from, and the low bits of every such word say 32 bits. -/
theorem decodeEncodeRoundTrip : Obligations.DecodeEncodeRoundTrip := by
  unfold Obligations.DecodeEncodeRoundTrip
  exact fun i wf => decodeBytes_bytesOfWord (decodeWord_encode wf)

/-- A number written in the table decodes to the well-formed instruction whose word it is. -/
theorem decodeTableWord_of_encode {i : Instr} {word : Nat} (wf : i.WellFormed = true)
    (encoded : encode i = BitVec.ofNat 32 (word % 2 ^ 32)) : decodeTableWord 32 word = some i := by
  rw [decodeTableWord, ← encoded, decodeEncodeRoundTrip i wf]

/-- Settles O3: each word is the encoding of its instruction. -/
theorem sampleWordsDecode : Obligations.SampleWordsDecode := by
  unfold Obligations.SampleWordsDecode
  refine ⟨?_, ?_, ?_, ?_, ?_, ?_, ?_, ?_, ?_⟩ <;> exact decodeTableWord_of_encode rfl rfl

end Sys2Proof.Machine
end

section
/-! How an instruction ends, in any mode: it answers a next state, which is a trap, the next instruction, a jump, a CSR
write or a return. What every step keeps is proved of these endings. -/

namespace Sys2Proof.Machine

open Sys2Proof

/-! ## What an instruction may change before it ends -/

/-- `t` is `s` but for general registers, memory with its devices, and what the hart remembers of translations, PMP checks,
its stall and its draws; memory keeps its canonical form. -/
structure PcAndCsrsKept (s t : State) : Prop where
  same : t = { s with
    x := t.x, mtime := t.mtime, mtimecmp := t.mtimecmp, msip := t.msip, stalled := t.stalled, tc := t.tc
    pmpStale := t.pmpStale, pmpStaleG := t.pmpStaleG, mem := t.mem, draws := t.draws }
  mem : Memory.wf s.mem = true → Memory.wf t.mem = true

theorem PcAndCsrsKept.refl (s : State) : PcAndCsrsKept s s := ⟨rfl, id⟩

theorem PcAndCsrsKept.trans {s t u : State} (h : PcAndCsrsKept s t) (k : PcAndCsrsKept t u) : PcAndCsrsKept s u := by
  refine ⟨?_, fun wf => k.mem (h.mem wf)⟩
  have first := h.same
  have second := k.same
  rw [second]
  rw [first]

theorem PcAndCsrsKept.of_touched {s t : State} (h : Touched s t) : PcAndCsrsKept s t := by
  refine ⟨?_, h.wf⟩
  rw [h.same]

theorem PcAndCsrsKept.writeX (s : State) (rd : RegIdx) (v : Word) : PcAndCsrsKept s (s.writeX rd v) := by
  refine ⟨?_, fun wf => by rwa [State.writeX_mem]⟩
  rw [State.writeX_same]

theorem PcAndCsrsKept.fenceGuest (s : State) (rs1 rs2 : RegIdx) : PcAndCsrsKept s (s.fenceGuest rs1 rs2) := by
  refine ⟨?_, fun wf => by rwa [State.fenceGuest_mem]⟩
  unfold State.fenceGuest
  dsimp only
  split <;> rfl

theorem PcAndCsrsKept.sfence (s : State) (rs1 rs2 : RegIdx) : PcAndCsrsKept s (s.sfence rs1 rs2) := by
  refine ⟨?_, fun wf => by rwa [State.sfence_mem]⟩
  unfold State.sfence
  split
  · exact (PcAndCsrsKept.fenceGuest s rs1 rs2).same
  · dsimp only
    split <;> rfl

section
variable {s t : State} (h : PcAndCsrsKept s t)
include h

theorem PcAndCsrsKept.pc_eq : t.pc = s.pc := by rw [h.same]
theorem PcAndCsrsKept.priv_eq : t.priv = s.priv := by rw [h.same]
theorem PcAndCsrsKept.virt_eq : t.virt = s.virt := by rw [h.same]

end

/-! ## The endings -/

/-- The ways an instruction `i` executed in `s` ends. -/
inductive EndsAs (i : Instr) (s : State) : State → Prop where
  | trap {u : State} (e : Excn) (kept : PcAndCsrsKept s u) : EndsAs i s (u.takeException (encode i) e)
  | next {u : State} (kept : PcAndCsrsKept s u) : EndsAs i s u.retire
  | jump {u : State} {target : Word} (kept : PcAndCsrsKept s u) (aligned : s.aligned target = true) :
      EndsAs i s (u.retireTo target)
  | csr {u t : State} {r : CsrReg} {v : Word} (kept : PcAndCsrsKept s u)
      (reached : r.machineLevel = true → s.priv = .machine)
      (write : (u.retireBefore true r).csrWrite r v = some t) : EndsAs i s t
  | mret (is : i = .mret) (machine : s.priv = .machine) : EndsAs i s (s.returnFromM.completeReturn s.m.epc)
  | sret (is : i = .sret) (permitted : s.sretPermit = .ok) :
      EndsAs i s (if s.virt then s.returnFromVS.completeReturn s.vs.epc else s.returnFromS.completeReturn s.s.epc)

/-- The outcome `o` is a next state, an ending of `i`. -/
def State.Completed (s : State) (i : Instr) (o : Out) : Prop := ∃ t, o = .next t ∧ EndsAs i s t

section
variable {s u : State} {i : Instr} (kept : PcAndCsrsKept s u)
include kept

theorem State.Completed.trap (e : Excn) : s.Completed i (.next (u.takeException (encode i) e)) :=
  ⟨_, rfl, .trap e kept⟩

theorem State.Completed.next : s.Completed i (.next u.retire) := ⟨_, rfl, .next kept⟩

/-- A guarded meaning ends well if it does where it is permitted. -/
theorem State.Completed.guarded {p : Permit} {k : State → Out} (run : p = .ok → s.Completed i (k u)) :
    s.Completed i (u.guarded (encode i) p k) := by
  cases p with
  | ok => exact run rfl
  | illegal | virt => exact .trap kept _

end

section
variable (s : State) (i : Instr)

theorem State.Completed.compute (rd : RegIdx) (v : Word) : s.Completed i (s.compute rd v) := .next (.writeX s rd v)

theorem State.Completed.shiftImm (rd : RegIdx) (sh : BitVec 6) (v : Word) :
    s.Completed i (s.shiftImm (encode i) rd sh v) := .guarded (.refl s) fun _ => .compute s i rd v

theorem State.Completed.jump (rd : RegIdx) (target : Word) : s.Completed i (s.jump (encode i) rd target) := by
  obtain ⟨aligned, jumps⟩ | ⟨-, jumps⟩ := s.jump_cases (encode i) rd target
  · rw [jumps]
    exact ⟨_, rfl, .jump (.writeX s _ _) aligned⟩
  · rw [jumps]
    exact .trap (.refl s) _

theorem State.Completed.branch (taken : Bool) (off : BitVec 13) : s.Completed i (s.branch (encode i) taken off) := by
  cases taken
  · exact .next (.refl s)
  · exact .jump s i _ _

theorem State.Completed.loadTo (a : Acc) (rd : RegIdx) (va : Word) (ext : Word → Word) :
    s.Completed i (s.loadTo (encode i) a rd va ext) := by
  have kept := PcAndCsrsKept.of_touched (Walked.load s a va).toTouched
  unfold State.loadTo
  cases answer : s.load a va with
  | ok v t => rw [answer] at kept; exact .next (kept.trans (.writeX t _ _))
  | exn e t => rw [answer] at kept; exact .trap kept e

theorem State.Completed.storeFrom (a : Acc) (va v : Word) : s.Completed i (s.storeFrom (encode i) a va v) := by
  have kept := PcAndCsrsKept.of_touched (Touched.store s a va v)
  unfold State.storeFrom
  cases answer : s.store a va v with
  | ok v t => rw [answer] at kept; exact .next kept
  | exn e t => rw [answer] at kept; exact .trap kept e

/-- A CSR instruction reaches a register of the machine level from M-mode alone (R41). -/
theorem State.Completed.csrOp (rd : RegIdx) (a : BitVec 12) (writes : Bool) (f : Word → Word) :
    s.Completed i (s.csrOp (encode i) rd a writes f) := by
  obtain answer | answer | ⟨check, named, names, ⟨-, answer⟩ | ⟨-, t, answer, write⟩⟩ :=
    s.csrOp_cases (encode i) rd a writes f
  · rw [answer]; exact .trap (.refl s) _
  · rw [answer]; exact .trap (.refl s) _
  · rw [answer]; exact .next (.writeX s _ _)
  · refine ⟨t, answer, .csr (.writeX s _ _) (fun level => ?_) write⟩
    by_contra below
    have low := s.effectiveCsr_machineLevel (csrOf_machineLevel names (State.csrLevel_of_csrCheck below check))
    exact Bool.false_ne_true (low.symm.trans level)

end

/-- WFI as it completes is a stall drawn before the instruction retires. -/
theorem State.waitForInterrupt_eq (s : State) : s.waitForInterrupt = State.retire { s with
    stalled := !s.wakeRequired && Config.freeBit s.draws, draws := s.draws + 1 } := by
  rw [State.waitForInterrupt, State.retire, State.retire, State.retireTo_eq, State.retireTo_eq]
  rfl

theorem State.Completed.wfi (s : State) : s.Completed .wfi (execWfi s) := by
  have waits : s.Completed .wfi (.next s.waitForInterrupt) := by
    rw [State.waitForInterrupt_eq]
    exact .next ⟨rfl, id⟩
  unfold execWfi
  split
  · exact waits
  · unfold State.wfiWithin
    split
    · exact .guarded (.refl s) fun _ => .next (.refl s)
    · exact .guarded (u := s.drew) ⟨rfl, id⟩ fun _ => .next ⟨rfl, id⟩
  · exact .guarded (.refl s) fun _ => waits

/-- Every instruction, in every state, ends in one of these ways. -/
theorem exec_completed (i : Instr) (s : State) : s.Completed i (exec i s) := by
  have here := PcAndCsrsKept.refl s
  unfold exec
  cases i <;> dsimp only
  case mret => exact .guarded here fun permitted => ⟨_, rfl, .mret rfl (by simpa using permitted)⟩
  case sret =>
    refine .guarded here fun permitted => ⟨_, ?_, .sret rfl permitted⟩
    split <;> rfl
  case ecall | ebreak => exact .trap here _
  case wfi => exact .wfi s
  case fence | fenceI => exact .next here
  case sfenceVma rs1 rs2 | sinvalVma rs1 rs2 => exact .guarded here fun _ => .next (.sfence s rs1 rs2)
  case sfenceWInval | sfenceInvalIr => exact .guarded here fun _ => .next here
  case hfenceVvma rs1 rs2 | hinvalVvma rs1 rs2 => exact .guarded here fun _ => .next (.fenceGuest s rs1 rs2)
  case hfenceGvma | hinvalGvma => exact .guarded here fun _ => .next ⟨rfl, id⟩
  case hlvB | hlvBu | hlvH | hlvHu | hlvW | hlvWu | hlvD | hlvxHu | hlvxWu =>
    exact .guarded here fun _ => .loadTo s _ _ _ _ _
  case hsvB | hsvH | hsvW | hsvD => exact .guarded here fun _ => .storeFrom s _ _ _ _
  case csrrw | csrrs | csrrc | csrrwi | csrrsi | csrrci => exact .csrOp s _ _ _ _ _
  case lui | auipc | addi | slti | sltiu | xori | ori | andi => exact .compute s _ _ _
  case add | sub | sll | slt | sltu | xor | srl | sra | or | and => exact .compute s _ _ _
  case jal | jalr => exact .jump s _ _ _
  case beq | bne | blt | bge | bltu | bgeu => exact .branch s _ _ _
  case lb | lh | lw | lbu | lhu => exact .loadTo s _ _ _ _ _
  case ld | lwu => exact .guarded here fun _ => .loadTo s _ _ _ _ _
  case sb | sh | sw => exact .storeFrom s _ _ _ _
  case sd => exact .guarded here fun _ => .storeFrom s _ _ _ _
  case slli | srli | srai => exact .shiftImm s _ _ _ _
  case addiw | addw | subw => exact .guarded here fun _ => .compute s _ _ _

theorem endsAs_of_exec {i : Instr} {s t : State} (run : exec i s = .next t) : EndsAs i s t := by
  obtain ⟨u, answer, ends⟩ := exec_completed i s
  cases run.symm.trans answer
  exact ends

/-- Settles O5: every ending of an instruction is a next state. -/
theorem everyInstructionAnswersNext : Obligations.EveryInstructionAnswersNext := by
  unfold Obligations.EveryInstructionAnswersNext
  intro i s
  obtain ⟨t, answer, -⟩ := exec_completed i s
  exact ⟨t, answer⟩

/-! ## The mode -/

/-- Settles O13: of the endings of an instruction only a trap and the returns change the mode. -/
theorem onlyTrapsAndReturnsChangeMode : Obligations.OnlyTrapsAndReturnsChangeMode := by
  unfold Obligations.OnlyTrapsAndReturnsChangeMode
  intro i s t notMret notSret run
  cases endsAs_of_exec run with
  | @trap u e kept => exact .inr ⟨u, e, kept.priv_eq, kept.virt_eq, rfl⟩
  | next kept => exact .inl ⟨by rw [State.retire_priv, kept.priv_eq], by rw [State.retire_virt, kept.virt_eq]⟩
  | jump kept aligned => exact .inl ⟨by rw [State.retireTo_priv, kept.priv_eq], by rw [State.retireTo_virt, kept.virt_eq]⟩
  | csr kept reached write =>
    obtain ⟨-, priv, virt, -⟩ := (CsrTouched.csrWrite _ _ _ _ write).sameOutsideCsrs
    exact .inl ⟨by rw [priv, State.retireBefore_priv, kept.priv_eq], by rw [virt, State.retireBefore_virt, kept.virt_eq]⟩
  | mret is => exact absurd is notMret
  | sret is => exact absurd is notSret

end Sys2Proof.Machine
end

section
/-! How a step ends: what happens before it acts changes neither the mode nor `pc` nor any register that the steps'
invariants speak of, and it then ends in a reset, an NMI, a stalled cycle, an interrupt, a trap, or as its instruction. -/

namespace Sys2Proof.Machine

open Sys2Proof

/-! ## Before the step acts -/

/-- `t` is `s` but for the inputs, the devices, the counters that run by themselves, SSIP, memory, and what the hart
remembers of translations, its stall and its draws; memory keeps its canonical form. -/
structure Prepared (s t : State) : Prop where
  same : t = { s with
    lines := t.lines, mtime := t.mtime, mtimecmp := t.mtimecmp, msip := t.msip, env := t.env
    m := { s.m with ip := t.m.ip, cycle := t.m.cycle, hpmcounter := t.m.hpmcounter }
    stalled := t.stalled, tc := t.tc, draws := t.draws, mem := t.mem }
  mem : Memory.wf s.mem = true → Memory.wf t.mem = true

theorem Prepared.refl (s : State) : Prepared s s := ⟨rfl, id⟩

theorem Prepared.trans {s t u : State} (h : Prepared s t) (k : Prepared t u) : Prepared s u := by
  refine ⟨?_, fun wf => k.mem (h.mem wf)⟩
  have first := h.same
  have second := k.same
  rw [second]
  rw [first]

theorem Prepared.of_touched {s t : State} (h : Touched s t) : Prepared s t := by
  refine ⟨?_, h.wf⟩
  rw [h.same]

/-- A speculative walk changes the translation cache and the draws alone (R573). -/
theorem State.speculate_same (s : State) (k : SpecWalk) :
    s.speculate k = { s with tc := (s.speculate k).tc, draws := (s.speculate k).draws } := by
  unfold State.speculate
  dsimp only
  split_ifs
  · rfl
  · split <;> rfl
  · rfl
  · split <;> rfl
  · rfl

theorem Prepared.speculations (l : List SpecWalk) (s : State) : Prepared s (l.foldl State.speculate s) := by
  induction l generalizing s with
  | nil => exact .refl s
  | cons k l ih =>
    have first : Prepared s (s.speculate k) := by
      rw [s.speculate_same k]
      exact ⟨rfl, id⟩
    exact first.trans (ih _)

theorem Prepared.begin (s : State) : Prepared s s.begin := by
  have sampled : Prepared s (s.sample s.event) := by
    unfold State.sample
    refine .trans ?_ (.speculations _ _)
    exact ⟨rfl, id⟩
  exact sampled.trans ⟨rfl, id⟩

theorem Prepared.awake (s : State) : Prepared s s.awake := by
  unfold State.awake
  split <;> exact ⟨rfl, id⟩

section
variable {s t : State} (h : Prepared s t)
include h

theorem Prepared.cfg_eq : t.cfg = s.cfg := by rw [h.same]
theorem Prepared.pc_eq : t.pc = s.pc := by rw [h.same]
theorem Prepared.priv_eq : t.priv = s.priv := by rw [h.same]
theorem Prepared.virt_eq : t.virt = s.virt := by rw [h.same]
theorem Prepared.ext_eq : t.ext = s.ext := by rw [h.same]
theorem Prepared.mstatus_eq : t.mstatus = s.mstatus := by rw [h.same]
theorem Prepared.pmpcfg_eq : t.pmpcfg = s.pmpcfg := by rw [h.same]
theorem Prepared.pmpaddr_eq : t.pmpaddr = s.pmpaddr := by rw [h.same]

end

/-! ## The endings of a step -/

/-- The ways a step from `s` ends. -/
inductive StepEnds (s : State) : State → Prop where
  | reset {u : State} (prepared : Prepared s u) (asked : s.event.reset = true) : StepEnds s u.resetHart
  | nmi {u : State} (prepared : Prepared s u) : StepEnds s u.takeNmi
  | sleep {u : State} (prepared : Prepared s u) : StepEnds s u
  | interrupt {u : State} {d : Dest} {code : Nat} (prepared : Prepared s u) (due : u.interrupt = some (d, code)) :
      StepEnds s (u.takeInterrupt d code)
  | trap {u : State} (w : BitVec 32) (e : Excn) (prepared : Prepared s u) : StepEnds s (u.takeException w e)
  | exec {u t : State} (i : Instr) (prepared : Prepared s u) (ends : EndsAs i u t) : StepEnds s t

theorem StepEnds.of_runBytes {s u t : State} {bytes : List Byte} (prepared : Prepared s u)
    (run : u.runBytes bytes = .next t) : StepEnds s t := by
  unfold State.runBytes at run
  dsimp only at run
  split at run
  · split at run
    · exact .exec _ prepared (endsAs_of_exec run)
    · cases run; exact .trap _ _ prepared
  · split at run
    · cases run
    · cases run; exact .trap _ _ prepared
  · cases run; exact .trap _ _ prepared
  · cases run; exact .trap _ _ prepared

theorem StepEnds.of_runNext {s u t : State} (prepared : Prepared s u) (run : u.runNext = .next t) : StepEnds s t := by
  unfold State.runNext at run
  split at run
  · next due =>
    cases run
    exact .interrupt prepared due
  · have fetched := (Walked.fetch u).toTouched
    unfold State.fetchAndRun at run
    cases answer : u.fetch with
    | ok bytes v =>
      rw [answer] at run fetched
      exact .of_runBytes (prepared.trans (.of_touched fetched)) run
    | exn e v =>
      rw [answer] at run fetched
      cases run
      exact .trap _ _ (prepared.trans (.of_touched fetched))

/-- Every step that answers a next state ends in one of these ways. -/
theorem stepEnds_of_step {s t : State} (run : step s = .next t) : StepEnds s t := by
  rw [step_eq] at run
  split at run
  case isFalse => cases run
  unfold State.act at run
  split_ifs at run with reset nmi sleeps
  · cases run; exact .reset (.begin s) reset
  · cases run; exact .nmi (.begin s)
  · cases run; exact .sleep ((Prepared.begin s).trans ⟨rfl, id⟩)
  · exact .of_runNext ((Prepared.begin s).trans (.awake _)) run

/-! ## Memory -/

theorem CsrTouched.mem_eq {s t : State} (h : CsrTouched s t) : t.mem = s.mem := by
  unfold CsrTouched at h
  rw [h]

/-- Every instruction keeps the canonical form of memory. -/
theorem EndsAs.mem_wf {i : Instr} {s t : State} (h : EndsAs i s t) (wf : Memory.wf s.mem = true) :
    Memory.wf t.mem = true := by
  cases h with
  | trap e kept => simpa using kept.mem wf
  | next kept => simpa using kept.mem wf
  | jump kept aligned => simpa using kept.mem wf
  | csr kept reached write =>
    rw [(CsrTouched.csrWrite _ _ _ _ write).mem_eq, State.retireBefore_mem]
    exact kept.mem wf
  | mret is machine => rw [State.completeReturn_same]; exact wf
  | sret is permitted =>
    split <;> rw [State.completeReturn_same] <;> exact wf

/-- Settles O7: nothing writes memory but through the operations that keep its canonical form. -/
theorem stepKeepsMemoryCanonical : Obligations.StepKeepsMemoryCanonical := by
  unfold Obligations.StepKeepsMemoryCanonical
  intro s t wf run
  cases stepEnds_of_step run with
  | reset prepared => exact prepared.mem wf
  | nmi prepared => exact prepared.mem wf
  | sleep prepared => exact prepared.mem wf
  | interrupt prepared => simpa using prepared.mem wf
  | trap w e prepared => simpa using prepared.mem wf
  | exec i prepared ends => exact ends.mem_wf (prepared.mem wf)

end Sys2Proof.Machine
end

section
/-! What a CSR write leaves of the set-up of the hart: the extensions in force, MXLEN, MPP as an implemented mode, and the
PMP entries that are locked (R117, R477). -/

namespace Sys2Proof.Machine

open Sys2Proof

/-! ## Locked PMP entries (R477) -/

/-- A PMP entry that is locked in `s` is as it was, and where MXLEN cannot change so is its address, and the address below
it if it is a TOR entry. -/
def LocksKept (s t : State) : Prop :=
  ∀ i, pmpLocked (s.pmpCfg i) = true →
    t.pmpCfg i = s.pmpCfg i
      ∧ (s.cfg.mxlWritable = false →
          t.pmpAddrRaw i = s.pmpAddrRaw i
            ∧ ∀ j, j + 1 = i → pmpA (s.pmpCfg i) = 1 → t.pmpAddrRaw j = s.pmpAddrRaw j)

theorem LocksKept.of_eq {s t : State} (pmpcfg : t.pmpcfg = s.pmpcfg) (pmpaddr : t.pmpaddr = s.pmpaddr) :
    LocksKept s t := by
  intro i _
  simp [State.pmpCfg, State.pmpAddrRaw, pmpcfg, pmpaddr]

theorem LocksKept.trans {s t u : State} (cfg : t.cfg = s.cfg) (h : LocksKept s t) (k : LocksKept t u) :
    LocksKept s u := by
  intro i locked
  obtain ⟨byte, address⟩ := h i locked
  obtain ⟨byte', address'⟩ := k i (by rwa [byte])
  refine ⟨byte'.trans byte, fun fixed => ?_⟩
  obtain ⟨own, below⟩ := address fixed
  obtain ⟨own', below'⟩ := address' (by rwa [cfg])
  exact ⟨own'.trans own, fun j next tor => (below' j next (by rwa [byte])).trans (below j next tor)⟩

theorem getD_setIfInBounds_of_ne {α : Type} {n : Nat} (l : Vector α n) {i j : Nat} (a d : α) (h : i ≠ j) :
    (l.setIfInBounds i a).getD j d = l.getD j d := by
  simp [Vector.getD, Array.getD_eq_getD_getElem?, Array.getElem?_setIfInBounds_ne h]

theorem getD_setIfInBounds_getD {α : Type} {n : Nat} (l : Vector α n) (i : Nat) (d : α) :
    (l.setIfInBounds i (l.getD i d)).getD i d = l.getD i d := by
  by_cases bound : i < n <;> simp [Vector.getD, Array.getD_eq_getD_getElem?, bound]

/-- A write that keeps the byte there changes nothing (R477). -/
theorem LocksKept.writePmpcfgs (n : Nat) (s : State) (i : Nat) (v : Word) : LocksKept s (s.writePmpcfgs i v n) := by
  induction n generalizing s i v with
  | zero => exact .of_eq rfl rfl
  | succ n ih =>
    refine .trans (t := { s with pmpcfg := s.pmpcfg.setIfInBounds i (s.legalPmpcfg i (v.setWidth 8)) }) rfl ?_ (ih _ _ _)
    intro k locked
    refine ⟨?_, fun _ => ⟨rfl, fun _ _ _ => rfl⟩⟩
    by_cases same : i = k
    · subst same
      have kept : s.legalPmpcfg i (v.setWidth 8) = s.pmpCfg i := by simp [State.legalPmpcfg, locked]
      rw [kept]
      exact getD_setIfInBounds_getD _ _ _
    · exact getD_setIfInBounds_of_ne _ _ _ same

/-- A register of an address that no locked entry uses may be written (R477). -/
theorem LocksKept.writePmpaddr {s : State} {i : Nat} (unlocked : s.pmpaddrLocked i = false) (v : Word) :
    LocksKept s { s with pmpaddr := s.pmpaddr.setIfInBounds i v } := by
  simp only [State.pmpaddrLocked, Bool.or_eq_false_iff, Bool.and_eq_false_iff] at unlocked
  obtain ⟨⟨-, own⟩, above⟩ := unlocked
  intro k locked
  refine ⟨rfl, fun _ => ⟨getD_setIfInBounds_of_ne _ _ _ ?_, fun j next tor => getD_setIfInBounds_of_ne _ _ _ ?_⟩⟩
  · rintro rfl
    exact Bool.false_ne_true (own.symm.trans locked)
  · rintro rfl
    rw [next] at above
    simp [locked, tor] at above

/-! ## The set-up over a CSR write -/

/-- The extensions and MXLEN are as in `s`, MPP is still an implemented mode if it was one, and what is locked of the PMP
is kept. -/
structure SetupKept (s t : State) : Prop where
  cfg : t.cfg = s.cfg
  ext : t.ext = s.ext
  mxl : t.mxl = s.mxl
  mpp : s.hasPriv s.mstatus.mpp = true → s.hasPriv t.mstatus.mpp = true
  locks : LocksKept s t

theorem State.hasPriv_congr {s t : State} (ext : t.ext = s.ext) (p : Priv) : t.hasPriv p = s.hasPriv p := by
  simp [State.hasPriv, State.hasS, State.hasU, State.hasExt, ext]

theorem SetupKept.of_eq {s t : State} (cfg : t.cfg = s.cfg) (ext : t.ext = s.ext) (mxl : t.mxl = s.mxl)
    (mpp : t.mstatus.mpp = s.mstatus.mpp) (pmpcfg : t.pmpcfg = s.pmpcfg) (pmpaddr : t.pmpaddr = s.pmpaddr) :
    SetupKept s t where
  cfg := cfg
  ext := ext
  mxl := mxl
  mpp h := by rwa [mpp]
  locks := .of_eq pmpcfg pmpaddr

theorem SetupKept.refl (s : State) : SetupKept s s := .of_eq rfl rfl rfl rfl rfl rfl

theorem SetupKept.trans {s t u : State} (h : SetupKept s t) (k : SetupKept t u) : SetupKept s u where
  cfg := k.cfg.trans h.cfg
  ext := k.ext.trans h.ext
  mxl := k.mxl.trans h.mxl
  mpp legal := by
    have := k.mpp (by rw [State.hasPriv_congr h.ext]; exact h.mpp legal)
    rwa [State.hasPriv_congr h.ext] at this
  locks := h.locks.trans h.cfg k.locks

theorem SetupKept.staleAfter (s b : State) : SetupKept s (s.staleAfter b) := by
  unfold State.staleAfter
  split <;> exact .of_eq rfl rfl rfl rfl rfl rfl

theorem SetupKept.freeHideleg (s b : State) : SetupKept s (s.freeHideleg b) := by
  unfold State.freeHideleg
  dsimp only
  split <;> exact .of_eq rfl rfl rfl rfl rfl rfl

theorem SetupKept.settleS (s : State) (x : Xlen) : SetupKept s (s.settleS x) := by
  unfold State.settleS
  split <;> exact .of_eq rfl rfl rfl rfl rfl rfl

theorem SetupKept.settleVs (s : State) (x : Xlen) : SetupKept s (s.settleVs x) := by
  unfold State.settleVs
  split <;> exact .of_eq rfl rfl rfl rfl rfl rfl

/-- A change of MXLEN narrows the address registers of the PMP, where MXLEN is writable (R482). -/
theorem SetupKept.settleM (s : State) (x : Xlen) (fixed : s.cfg.mxlWritable = false → x = s.mxlen) :
    SetupKept s (s.settleM x) := by
  by_cases same : x = s.mxlen
  · rw [same, State.settleM_self]
    exact .refl s
  · have writable : s.cfg.mxlWritable ≠ false := mt fixed same
    have narrowed : SetupKept s s.narrowM := ⟨rfl, rfl, rfl, id, fun i _ => ⟨rfl, fun h => absurd h writable⟩⟩
    unfold State.settleM
    split
    · exact narrowed.trans (.staleAfter _ s)
    · exact .of_eq rfl rfl rfl rfl rfl rfl
    · exact .refl s

theorem SetupKept.settle (b s : State) (fixed : s.cfg.mxlWritable = false → b.mxlen = s.mxlen) :
    SetupKept s (settle b s) :=
  ((SetupKept.settleM s _ fixed).trans (.settleS _ _)).trans (.settleVs _ _)

/-- MPP as written is an implemented mode, or the one held (R117). -/
theorem State.hasPriv_legalMpp (s : State) (v : BitVec 2) (legal : s.hasPriv s.mstatus.mpp = true) :
    s.hasPriv (s.legalMpp v) = true := by
  unfold State.legalMpp
  split_ifs with machine supervisor user
  · rfl
  · exact supervisor.2
  · exact user.2
  · exact legal

theorem State.writeMstatus_mpp (s : State) (v : Word) : (s.writeMstatus v).mpp = s.legalMpp (two v 11) := by
  unfold State.writeMstatus
  split <;> rfl

theorem State.writeSstatus_mpp (s : State) (v : Word) : (s.writeSstatus v).mpp = s.mstatus.mpp := by
  unfold State.writeSstatus
  dsimp only
  split <;> rfl

/-- A write of `mstatus`, before the widths follow it. -/
theorem SetupKept.writeMstatus (s : State) (v : Word) : SetupKept s { s with mstatus := s.writeMstatus v } where
  cfg := rfl
  ext := rfl
  mxl := rfl
  mpp legal := by
    rw [s.writeMstatus_mpp]
    exact s.hasPriv_legalMpp _ legal
  locks := .of_eq rfl rfl

theorem State.writePmpcfgs_same (n : Nat) (s : State) (i : Nat) (v : Word) :
    s.writePmpcfgs i v n = { s with pmpcfg := (s.writePmpcfgs i v n).pmpcfg } := by
  induction n generalizing s i v with
  | zero => rfl
  | succ n ih => exact ih { s with pmpcfg := s.pmpcfg.setIfInBounds i (s.legalPmpcfg i (v.setWidth 8)) } _ _

theorem SetupKept.writePmpcfgs (n : Nat) (s : State) (i : Nat) (v : Word) : SetupKept s (s.writePmpcfgs i v n) where
  cfg := by rw [State.writePmpcfgs_same]
  ext := by rw [State.writePmpcfgs_same]
  mxl := by rw [State.writePmpcfgs_same]
  mpp h := by rw [State.writePmpcfgs_same]; exact h
  locks := .writePmpcfgs n s i v

theorem SetupKept.writeMCsr {s t : State} {r : CsrReg} {v : Word} (h : s.writeMCsr r v = some t) : SetupKept s t := by
  have same : SetupKept s s := .refl s
  cases r
  case mstatus => cases h; exact (SetupKept.writeMstatus s v).trans (.settle s _ fun _ => rfl)
  case mideleg =>
    cases h
    refine .trans ?_ (.freeHideleg _ s)
    exact .of_eq rfl rfl rfl rfl rfl rfl
  case mcause =>
    obtain ⟨c, -, rfl⟩ := Option.map_eq_some_iff.mp h
    exact .of_eq rfl rfl rfl rfl rfl rfl
  case pmpcfg k => cases h; exact (SetupKept.writePmpcfgs _ s _ v).trans (.staleAfter _ s)
  case pmpaddr i =>
    cases h
    split
    · exact same
    · next unlocked =>
      refine .trans ?_ (.staleAfter _ s)
      exact ⟨rfl, rfl, rfl, id, .writePmpaddr (Bool.eq_false_of_not_eq_true unlocked) _⟩
  case mtval | mhpmcounter | mhpmcounterh | mhpmevent => cases h; split <;> exact .of_eq rfl rfl rfl rfl rfl rfl
  all_goals cases h; exact .of_eq rfl rfl rfl rfl rfl rfl

theorem SetupKept.writeSCsr {s t : State} {r : CsrReg} {v : Word} (h : s.writeSCsr r v = some t) : SetupKept s t := by
  cases r
  case sstatus => cases h; exact .of_eq rfl rfl rfl (s.writeSstatus_mpp v) rfl rfl
  case scause =>
    obtain ⟨c, -, rfl⟩ := Option.map_eq_some_iff.mp h
    exact .of_eq rfl rfl rfl rfl rfl rfl
  all_goals cases h; exact .of_eq rfl rfl rfl rfl rfl rfl

theorem SetupKept.writeHCsr {s t : State} {r : CsrReg} {v : Word} (h : s.writeHCsr r v = some t) : SetupKept s t := by
  cases r
  case hstatus =>
    rw [State.writeHCsr] at h
    split at h
    · cases h
    · cases h
      refine .trans ?_ (.settle s _ fun _ => rfl)
      exact .of_eq rfl rfl rfl rfl rfl rfl
  all_goals cases h; exact .of_eq rfl rfl rfl rfl rfl rfl

theorem SetupKept.writeVsCsr {s t : State} {r : CsrReg} {v : Word} (h : s.writeVsCsr r v = some t) :
    SetupKept s t := by
  cases r
  case vscause =>
    obtain ⟨c, -, rfl⟩ := Option.map_eq_some_iff.mp h
    exact .of_eq rfl rfl rfl rfl rfl rfl
  all_goals cases h; exact .of_eq rfl rfl rfl rfl rfl rfl

theorem SetupKept.writeOther {s t : State} {r : CsrReg} {v : Word} (h : s.writeOther r v = some t) :
    SetupKept s t := by
  unfold State.writeOther at h
  split at h
  all_goals first
    | exact .writeSCsr h
    | exact .writeHCsr h
    | exact .writeVsCsr h
    | exact .writeMCsr h

theorem State.csrWrite_of_ne_misa {r : CsrReg} (hr : r ≠ .misa) (s : State) (v : Word) :
    s.csrWrite r v = s.writeOther r v := by
  cases r <;> first | rfl | exact absurd rfl hr

/-- Only a write of `misa` changes the extensions, MXLEN or a mode that MPP may name. -/
theorem SetupKept.csrWrite {s t : State} {r : CsrReg} {v : Word} (hr : r ≠ .misa) (h : s.csrWrite r v = some t) :
    SetupKept s t := by
  rw [State.csrWrite_of_ne_misa hr] at h
  exact .writeOther h

/-! ## What a write of `misa` frees (R106) -/

theorem SetupKept.freeRegs (l : List CsrReg) (s : State) : SetupKept s (s.freeRegs l) := by
  induction l generalizing s with
  | nil => exact .refl s
  | cons r l ih =>
    unfold State.freeRegs
    refine .trans ?_ (ih _)
    refine .trans (t := (s.writeOther r (Config.freeWord s.draws)).getD s) ?_ (.of_eq rfl rfl rfl rfl rfl rfl)
    cases answer : s.writeOther r (Config.freeWord s.draws) with
    | none => exact .refl s
    | some t => exact .writeOther answer

theorem SetupKept.drawReservation (s : State) : SetupKept s s.drawReservation := .of_eq rfl rfl rfl rfl rfl rfl

theorem SetupKept.freeUpperX (s : State) : SetupKept s s.freeUpperX := by
  unfold State.freeUpperX
  generalize (Vector.ofFn fun (k : Fin 32) =>
    if k.val < 16 then s.x[k.val] else sxTo s.mxlen (Config.freeWord (s.draws + k.val))) = x
  exact .of_eq rfl rfl rfl rfl rfl rfl

theorem SetupKept.dropAbsent (s b : State) : SetupKept s (s.dropAbsent b) := .of_eq rfl rfl rfl rfl rfl rfl

theorem SetupKept.freeUser (s : State) : SetupKept s s.freeUser := by
  unfold State.freeUser
  refine .trans ?_ (.freeRegs userRegs _)
  exact .of_eq rfl rfl rfl rfl rfl rfl

theorem SetupKept.freeSupervisor (s : State) : SetupKept s s.freeSupervisor := by
  unfold State.freeSupervisor
  dsimp only
  refine .trans ?_ (.freeRegs supervisorRegs _)
  refine .trans ?_ (.settle s _ fun _ => rfl)
  exact .of_eq rfl rfl rfl rfl rfl rfl

theorem SetupKept.freeHypervisor (s : State) : SetupKept s s.freeHypervisor := by
  unfold State.freeHypervisor
  refine (SetupKept.freeRegs hypervisorRegs s).trans ?_
  exact .of_eq rfl rfl rfl rfl rfl rfl

theorem SetupKept.freeGained (s b : State) : SetupKept s (s.freeGained b) := by
  unfold State.freeGained
  refine .trans ?_ (.freeHideleg _ b)
  exact .of_eq rfl rfl rfl rfl rfl rfl

theorem SetupKept.onEnabled {f : State → State} (s b : State) (n : Nat) (hf : ∀ u, SetupKept u (f u)) :
    SetupKept s (s.onEnabled b n f) := by
  unfold State.onEnabled
  split
  · exact hf s
  · exact .refl s

/-- The modes of `s` are the implemented ones. -/
theorem State.mem_modes_iff (s : State) (p : Priv) : p ∈ s.modes ↔ s.hasPriv p = true := by
  unfold State.modes State.hasPriv
  cases p <;> cases s.hasS <;> cases s.hasU <;> simp

/-- MPP is left as it is, or is drawn from the implemented modes (R49, R117). -/
theorem SetupKept.freeMpp (s b : State) : SetupKept s (s.freeMpp b) := by
  unfold State.freeMpp
  split
  · exact .refl s
  · refine ⟨rfl, rfl, rfl, fun _ => ?_, .of_eq rfl rfl⟩
    rw [← State.mem_modes_iff]
    have pos : 0 < s.modes.length := by simp [State.modes]
    have bound := Nat.mod_lt (Config.freeChoice s.draws) pos
    rw [List.getD_eq_getElem _ _ bound]
    exact List.getElem_mem bound

/-- MPP is an implemented mode where it was one before the extensions changed. -/
theorem State.hasPriv_freeMpp {s b : State} (same : s.mstatus.mpp = b.mstatus.mpp)
    (legal : b.hasPriv b.mstatus.mpp = true) : (s.freeMpp b).hasPriv (s.freeMpp b).mstatus.mpp = true := by
  by_cases modes : s.modes = b.modes
  · have unchanged : s.freeMpp b = s := if_pos modes
    rw [unchanged, ← State.mem_modes_iff, modes, State.mem_modes_iff, same]
    exact legal
  · have kept := SetupKept.freeMpp s b
    have drawn : (s.freeMpp b).mstatus.mpp
        = s.modes.getD (Config.freeChoice s.draws % s.modes.length) .machine := by
      rw [State.freeMpp, if_neg modes]
    have pos : 0 < s.modes.length := by simp [State.modes]
    have bound := Nat.mod_lt (Config.freeChoice s.draws) pos
    rw [State.hasPriv_congr kept.ext, ← State.mem_modes_iff, drawn, List.getD_eq_getElem _ _ bound]
    exact List.getElem_mem bound

end Sys2Proof.Machine
end

section
/-! What a write of `misa` keeps, and with it every CSR write: MPP names an implemented mode, the extensions in force stay
legal, and what is locked of the PMP stays (R101 to R108, R477). -/

namespace Sys2Proof.Machine

open Sys2Proof

/-! ## The registers freed by a write of `misa` -/

theorem SetupKept.freeRest (s b m : State) :
    SetupKept s ((((s.onEnabled b Config.bitU State.freeUser).onEnabled b Config.bitS State.freeSupervisor).onEnabled b
      Config.bitH State.freeHypervisor).freeGained m) :=
  (((SetupKept.onEnabled s b _ .freeUser).trans (.onEnabled _ b _ .freeSupervisor)).trans
    (.onEnabled _ b _ .freeHypervisor)).trans (.freeGained _ m)

theorem SetupKept.freeReservationAndX (s b : State) :
    SetupKept s ((s.onEnabled b Config.bitA State.drawReservation).onEnabled b Config.bitI State.freeUpperX) :=
  (SetupKept.onEnabled s b _ .drawReservation).trans (.onEnabled _ b _ .freeUpperX)

theorem SetupKept.freeEnabled (s b : State) : SetupKept s (s.freeEnabled b) :=
  ((SetupKept.freeReservationAndX s b).trans (.freeMpp _ b)).trans (.freeRest _ b _)

theorem State.onEnabled_mstatus {f : State → State} (hf : ∀ u : State, (f u).mstatus = u.mstatus) (s b : State) (n : Nat) :
    (s.onEnabled b n f).mstatus = s.mstatus := by
  unfold State.onEnabled
  split
  · exact hf s
  · rfl

theorem State.freeUpperX_mstatus (s : State) : s.freeUpperX.mstatus = s.mstatus := by
  unfold State.freeUpperX
  generalize (Vector.ofFn fun (k : Fin 32) =>
    if k.val < 16 then s.x[k.val] else sxTo s.mxlen (Config.freeWord (s.draws + k.val))) = x
  rfl

theorem State.hasPriv_freeEnabled {s b : State} (same : s.mstatus.mpp = b.mstatus.mpp)
    (legal : b.hasPriv b.mstatus.mpp = true) : (s.freeEnabled b).hasPriv (s.freeEnabled b).mstatus.mpp = true := by
  unfold State.freeEnabled
  dsimp only
  have drawn : (((s.onEnabled b Config.bitA State.drawReservation).onEnabled b Config.bitI
      State.freeUpperX).mstatus).mpp = b.mstatus.mpp := by
    rw [State.onEnabled_mstatus State.freeUpperX_mstatus, State.onEnabled_mstatus (f := State.drawReservation) fun _ => rfl, same]
  have rest := SetupKept.freeRest
    (((s.onEnabled b Config.bitA State.drawReservation).onEnabled b Config.bitI State.freeUpperX).freeMpp b) b
    { b with mxl := s.mxl }
  rw [State.hasPriv_congr rest.ext]
  exact rest.mpp (State.hasPriv_freeMpp drawn legal)

/-! ## The write of `misa` -/

/-- The state of a write of `misa` before the fields follow the extensions and MXLEN. -/
def State.misaSet (s : State) (v : Word) : State :=
  { s with ext := s.legalExt v, mxl := legalXl s.cfg.mxlWritable s.mxl (two v (s.mxl.bits - 2)) }

/-- A write of `misa` is suppressed, or sets the extensions and MXLEN and settles the rest (R101, R107). -/
theorem State.writeMisa_cases (s : State) (v : Word) :
    s.writeMisa v = s
      ∨ (s.hasC && !(s.legalExt v).getLsbD Config.bitC && s.pc.getLsbD 1) = false
        ∧ s.writeMisa v = ((settle s (s.misaSet v)).dropAbsent s).freeEnabled s := by
  unfold State.writeMisa State.misaSet
  dsimp only
  split
  · exact .inl rfl
  · next written =>
    simp only [Bool.or_eq_true, not_or, Bool.not_eq_true] at written
    exact .inr ⟨written.2, rfl⟩

theorem SetupKept.settle_misaSet (s : State) (v : Word) : SetupKept (s.misaSet v) (Machine.settle s (s.misaSet v)) :=
  SetupKept.settle s (s.misaSet v) fun fixed => by
    have kept : (s.misaSet v).mxl = s.mxl := if_neg (Bool.eq_false_iff.mp fixed)
    exact kept.symm

theorem SetupKept.misaSettled (s : State) (v : Word) :
    SetupKept (s.misaSet v) (((Machine.settle s (s.misaSet v)).dropAbsent s).freeEnabled s) :=
  ((SetupKept.settle_misaSet s v).trans (.dropAbsent _ s)).trans (.freeEnabled _ s)

theorem State.settle_mpp (b s : State) : (Machine.settle b s).mstatus.mpp = s.mstatus.mpp := by
  have widthM (u : State) (x : Xlen) : (u.settleM x).mstatus.mpp = u.mstatus.mpp := by
    unfold State.settleM
    split <;> simp [State.narrowM, State.widenM]
  have widthS (u : State) (x : Xlen) : (u.settleS x).mstatus.mpp = u.mstatus.mpp := by
    unfold State.settleS
    split <;> rfl
  have widthVs (u : State) (x : Xlen) : (u.settleVs x).mstatus.mpp = u.mstatus.mpp := by
    unfold State.settleVs
    split <;> rfl
  unfold Machine.settle
  rw [widthVs, widthS, widthM]

theorem LocksKept.writeMisa (s : State) (v : Word) : LocksKept s (s.writeMisa v) := by
  obtain same | ⟨-, written⟩ := s.writeMisa_cases v
  · rw [same]
    exact .of_eq rfl rfl
  · rw [written]
    exact LocksKept.trans (t := s.misaSet v) rfl (.of_eq rfl rfl) (SetupKept.misaSettled s v).locks

/-- MPP is an implemented mode after a write of `misa` if it was one before (R117). -/
theorem State.hasPriv_writeMisa {s : State} (v : Word) (legal : s.hasPriv s.mstatus.mpp = true) :
    (s.writeMisa v).hasPriv (s.writeMisa v).mstatus.mpp = true := by
  obtain same | ⟨-, written⟩ := s.writeMisa_cases v
  · rw [same]
    exact legal
  · rw [written]
    exact State.hasPriv_freeEnabled (State.settle_mpp s _) legal

/-- Where a write of `misa` changes the extensions, it was not one that leaves `pc` misaligned (R107). -/
theorem State.writeMisa_ext (s : State) (v : Word) :
    (s.writeMisa v).ext = s.ext
      ∨ (s.writeMisa v).ext = s.legalExt v
        ∧ (s.hasC && !(s.legalExt v).getLsbD Config.bitC && s.pc.getLsbD 1) = false := by
  obtain same | ⟨aligned, written⟩ := s.writeMisa_cases v
  · rw [same]
    exact .inl rfl
  · rw [written]
    exact .inr ⟨(SetupKept.misaSettled s v).ext, aligned⟩

/-! ## Every CSR write -/

theorem State.csrWrite_misa {s t : State} {v : Word} (h : s.csrWrite .misa v = some t) : t = s.writeMisa v := by
  cases h
  rfl

theorem LocksKept.csrWrite {s t : State} {r : CsrReg} {v : Word} (h : s.csrWrite r v = some t) : LocksKept s t := by
  by_cases hr : r = .misa
  · subst hr
    rw [State.csrWrite_misa h]
    exact .writeMisa s v
  · exact (SetupKept.csrWrite hr h).locks

theorem State.csrWrite_cfg {s t : State} {r : CsrReg} {v : Word} (h : s.csrWrite r v = some t) : t.cfg = s.cfg := by
  have touched := CsrTouched.csrWrite _ _ _ _ h
  unfold CsrTouched at touched
  rw [touched]

theorem State.hasPriv_csrWrite {s t : State} {r : CsrReg} {v : Word} (h : s.csrWrite r v = some t)
    (legal : s.hasPriv s.mstatus.mpp = true) : t.hasPriv t.mstatus.mpp = true := by
  by_cases hr : r = .misa
  · subst hr
    rw [State.csrWrite_misa h]
    exact State.hasPriv_writeMisa v legal
  · have kept := SetupKept.csrWrite hr h
    rw [State.hasPriv_congr kept.ext]
    exact kept.mpp legal

/-! ## Locked PMP entries over a step (R477) -/

theorem EndsAs.locksKept {i : Instr} {s t : State} (h : EndsAs i s t) : LocksKept s t := by
  cases h with
  | trap e kept => exact .of_eq (by rw [State.takeException_pmpcfg, kept.same]) (by rw [State.takeException_pmpaddr, kept.same])
  | next kept => exact .of_eq (by rw [State.retire_pmpcfg, kept.same]) (by rw [State.retire_pmpaddr, kept.same])
  | jump kept aligned =>
    exact .of_eq (by rw [State.retireTo_pmpcfg, kept.same]) (by rw [State.retireTo_pmpaddr, kept.same])
  | csr kept reached write =>
    refine .trans ?_ (.of_eq ?_ ?_) (.csrWrite write)
    · rw [State.retireBefore_cfg, kept.same]
    · rw [State.retireBefore_pmpcfg, kept.same]
    · rw [State.retireBefore_pmpaddr, kept.same]
  | mret is machine => rw [State.completeReturn_same]; exact .of_eq rfl rfl
  | sret is permitted => split <;> rw [State.completeReturn_same] <;> exact .of_eq rfl rfl

/-- Settles O10: nothing but a reset or a CSR write changes the PMP registers, and no CSR write changes a locked entry. -/
theorem lockedPmpEntryStays : Obligations.LockedPmpEntryStays := by
  unfold Obligations.LockedPmpEntryStays
  intro s t i run awake locked
  suffices kept : LocksKept s t from kept i locked
  cases stepEnds_of_step run with
  | reset prepared asked => exact absurd (awake.symm.trans asked) Bool.false_ne_true
  | nmi prepared => exact .of_eq prepared.pmpcfg_eq prepared.pmpaddr_eq
  | sleep prepared => exact .of_eq prepared.pmpcfg_eq prepared.pmpaddr_eq
  | interrupt prepared => exact .of_eq (by simpa using prepared.pmpcfg_eq) (by simpa using prepared.pmpaddr_eq)
  | trap w e prepared => exact .of_eq (by simpa using prepared.pmpcfg_eq) (by simpa using prepared.pmpaddr_eq)
  | exec i prepared ends =>
    exact .trans prepared.cfg_eq (.of_eq prepared.pmpcfg_eq prepared.pmpaddr_eq) ends.locksKept

end Sys2Proof.Machine
end

section
/-! The extensions in force stay legal, and `pc` stays IALIGN-aligned, over every step (R37, R105, R107, R170). -/

namespace Sys2Proof.Machine

open Sys2Proof

/-! ## The extensions a write of `misa` leaves (R105) -/

theorem getLsbD_bit {b k : Nat} (hb : b < 26) : (BitVec.ofNat 26 (2 ^ b)).getLsbD k = decide (k = b) := by
  rw [BitVec.getLsbD_ofNat, Nat.testBit_two_pow]
  by_cases same : b = k
  · subst same
    simp [hb]
  · simp [same, Ne.symm same]

/-- Bit `k` of what a write of `misa` asks for, before dependencies (R48). -/
def State.askedBit (s : State) (v : Word) (k : Nat) : Bool :=
  if s.cfg.misaWritable.getLsbD k then v.getLsbD k else s.ext.getLsbD k

/-- Feature `k` is on and cannot be switched off. -/
def State.stuckOn (s : State) (k : Nat) : Bool := s.ext.getLsbD k && !s.cfg.misaWritable.getLsbD k

/-- Bit `k` is asked for, or what cannot be switched off needs it (R105). -/
def State.keptBit (s : State) (v : Word) (k : Nat) : Bool :=
  s.askedBit v k || (s.stuckOn Config.bitH && (k = Config.bitI || k = Config.bitS))
    || ((s.stuckOn Config.bitH || s.stuckOn Config.bitS) && k = Config.bitU)

/-- A bit is on where it is kept and so is what it needs (R105). -/
theorem State.legalExt_getLsbD (s : State) (v : Word) {k : Nat} (hk : k < 26) :
    (s.legalExt v).getLsbD k
      = (s.keptBit v k && (s.keptBit v Config.bitU || k ≠ Config.bitS)
          && (s.keptBit v Config.bitU && s.keptBit v Config.bitS && s.keptBit v Config.bitI || k ≠ Config.bitH)) := by
  unfold State.legalExt
  extract_lets w bit stuck asked keepsH keeps dropsS
  have asked_bit {j : Nat} (hj : j < 26) : asked.getLsbD j = s.askedBit v j := by
    simp only [asked, w, State.askedBit, BitVec.getLsbD_or, BitVec.getLsbD_and, BitVec.getLsbD_not,
      BitVec.getLsbD_setWidth, hj]
    cases s.cfg.misaWritable.getLsbD j <;> simp
  have bit_bit {b : Nat} (hb : b < 26) (j : Nat) : (bit b).getLsbD j = decide (j = b) := getLsbD_bit hb
  have keeps_bit {j : Nat} (hj : j < 26) : keeps.getLsbD j = s.keptBit v j := by
    have stuck_eq (b : Nat) : stuck b = s.stuckOn b := rfl
    simp only [keeps, keepsH, stuck_eq, State.keptBit]
    cases s.stuckOn Config.bitH <;> cases s.stuckOn Config.bitS <;>
      simp [asked_bit hj, bit_bit (b := Config.bitI) (by decide), bit_bit (b := Config.bitS) (by decide),
        bit_bit (b := Config.bitU) (by decide), Bool.or_assoc]
  have drops_bit {j : Nat} (hj : j < 26) :
      dropsS.getLsbD j = (s.keptBit v j && (s.keptBit v Config.bitU || j ≠ Config.bitS)) := by
    simp only [dropsS]
    rw [← keeps_bit hj, ← keeps_bit (j := Config.bitU) (by decide)]
    cases keeps.getLsbD Config.bitU <;> simp [-BitVec.getLsbD_eq_getElem, bit_bit (b := Config.bitS) (by decide), hj]
  have supervisor := drops_bit (j := Config.bitS) (by decide)
  have base := drops_bit (j := Config.bitI) (by decide)
  rw [← drops_bit hk, supervisor, base]
  cases s.keptBit v Config.bitU <;> cases s.keptBit v Config.bitS <;> cases s.keptBit v Config.bitI <;>
    simp [-BitVec.getLsbD_eq_getElem, bit_bit (b := Config.bitH) (by decide), hk, Config.bitI, Config.bitS]

/-- What the configurations that the spec allows say of the extensions and the vectors (R31, R105, R330, R961). -/
structure ConfigRules (c : Config) : Prop where
  userMode : c.misaExt.getLsbD Config.bitS = true → c.misaExt.getLsbD Config.bitU = true
  guestModes : c.misaExt.getLsbD Config.bitH = true →
    c.misaExt.getLsbD Config.bitS = true ∧ c.misaExt.getLsbD Config.bitI = true
  writable : c.misaWritable &&& ~~~(0x0141185#26 &&& c.misaExt) = 0
  resetVector : c.resetVector &&& (if c.misaExt.getLsbD Config.bitC then 1 else 3) = 0
  nmiVector : c.nmiVector &&& (if c.canIalign32 then 3 else 1) = 0
  pmpCount : c.pmpCount = 0 ∨ c.pmpCount = 16 ∨ c.pmpCount = 64
  pmpReset : c.pmpResetWf = true

theorem configRules {c : Config} (wf : c.wf = true) : ConfigRules c := by
  unfold Config.wf at wf
  simp only [Bool.and_eq_true, and_assoc, beq_iff_eq, Bool.or_eq_true, Bool.not_eq_true'] at wf
  obtain ⟨-, user, guest, -, -, -, -, -, pmpReset, -, -, -, -, -, -, -, -, -, -, -, pmpCount, -, -, -, -, resetVector, nmiVector,
    -, writable, -⟩ := wf
  exact ⟨fun on => user.resolve_left (by simp [on]), fun on => guest.resolve_left (by simp [on]), writable, resetVector,
    nmiVector, or_assoc.mp pmpCount, pmpReset⟩

/-- A writable bit of `misa` is one the hart has. -/
theorem ConfigRules.writable_bit {c : Config} (h : ConfigRules c) {k : Nat} (on : c.misaWritable.getLsbD k = true) :
    c.misaExt.getLsbD k = true := by
  have hk : k < 26 := BitVec.lt_of_getLsbD on
  have bit := congrArg (fun w : BitVec 26 => w.getLsbD k) h.writable
  simp [-BitVec.getLsbD_eq_getElem, on, hk] at bit
  exact bit.2

/-- The extensions in force are legal, bit by bit (R105). -/
structure State.ExtRules (s : State) : Prop where
  among {k : Nat} : s.ext.getLsbD k = true → s.cfg.misaExt.getLsbD k = true
  fixed {k : Nat} : s.cfg.misaWritable.getLsbD k = false → s.ext.getLsbD k = s.cfg.misaExt.getLsbD k
  userMode : s.hasS = true → s.hasU = true
  guestModes : s.hasH = true → s.hasS = true ∧ s.hasExt Config.bitI = true

theorem State.extLegal_iff (s : State) : s.extLegal = true ↔ s.ExtRules := by
  unfold State.extLegal
  simp only [Bool.and_eq_true, beq_iff_eq, Bool.or_eq_true, Bool.not_eq_true']
  constructor
  · rintro ⟨⟨⟨among, fixed⟩, user⟩, guest⟩
    refine ⟨fun {k} on => ?_, fun {k} off => ?_, fun on => user.resolve_left (by simp [on]),
      fun on => guest.resolve_left (by simp [on])⟩
    · have bit := congrArg (fun w : BitVec 26 => w.getLsbD k) among
      have hk : k < 26 := BitVec.lt_of_getLsbD on
      simpa [-BitVec.getLsbD_eq_getElem, on, hk] using bit
    · by_cases hk : k < 26
      · have bit := congrArg (fun w : BitVec 26 => w.getLsbD k) fixed
        simpa [-BitVec.getLsbD_eq_getElem, off, hk] using bit
      · rw [BitVec.getLsbD_of_ge _ _ (by omega), BitVec.getLsbD_of_ge _ _ (by omega)]
  · intro h
    refine ⟨⟨⟨?_, ?_⟩, ?_⟩, ?_⟩
    · refine BitVec.eq_of_getLsbD_eq fun k hk => ?_
      have := h.among (k := k)
      cases on : s.ext.getLsbD k <;> simp_all [-BitVec.getLsbD_eq_getElem]
    · refine BitVec.eq_of_getLsbD_eq fun k hk => ?_
      have := h.fixed (k := k)
      cases off : s.cfg.misaWritable.getLsbD k <;> simp_all [-BitVec.getLsbD_eq_getElem]
    · cases on : s.hasS
      · exact .inl rfl
      · exact .inr (h.userMode on)
    · cases on : s.hasH
      · exact .inl rfl
      · exact .inr (h.guestModes on)

theorem State.extLegal_congr {s t : State} (cfg : t.cfg = s.cfg) (ext : t.ext = s.ext) : t.extLegal = s.extLegal := by
  simp [State.extLegal, State.hasS, State.hasU, State.hasH, State.hasExt, cfg, ext]

/-- What a write of `misa` leaves of the extensions is legal (R105). -/
theorem State.ExtRules.legalExt {s : State} (cfg : ConfigRules s.cfg) (h : s.ExtRules) (v : Word) :
    ({ s with ext := s.legalExt v } : State).ExtRules := by
  have bit {k : Nat} (hk : k < 26) := s.legalExt_getLsbD v hk
  have asked_among {k : Nat} (on : s.askedBit v k = true) : s.cfg.misaExt.getLsbD k = true := by
    unfold State.askedBit at on
    split at on
    · next writable => exact cfg.writable_bit writable
    · exact h.among on
  have stuck_among {k : Nat} (on : s.stuckOn k = true) : s.cfg.misaExt.getLsbD k = true := by
    simp only [State.stuckOn, Bool.and_eq_true] at on
    exact h.among on.1
  have kept_among {k : Nat} (on : s.keptBit v k = true) : s.cfg.misaExt.getLsbD k = true := by
    simp only [State.keptBit, Bool.or_eq_true, Bool.and_eq_true, decide_eq_true_eq] at on
    obtain (asked | ⟨guest, rfl | rfl⟩) | ⟨guest | super, rfl⟩ := on
    · exact asked_among asked
    · exact (cfg.guestModes (stuck_among guest)).2
    · exact (cfg.guestModes (stuck_among guest)).1
    · exact cfg.userMode (cfg.guestModes (stuck_among guest)).1
    · exact cfg.userMode (stuck_among super)
  have among {k : Nat} (on : (s.legalExt v).getLsbD k = true) : s.cfg.misaExt.getLsbD k = true := by
    rw [bit (BitVec.lt_of_getLsbD on), Bool.and_eq_true, Bool.and_eq_true] at on
    exact kept_among on.1.1
  have stuck {k : Nat} (off : s.cfg.misaWritable.getLsbD k = false) (on : s.cfg.misaExt.getLsbD k = true) :
      s.stuckOn k = true := by
    simp [-BitVec.getLsbD_eq_getElem, State.stuckOn, h.fixed off, off, on]
  have kept_of_stuck {k : Nat} (on : s.stuckOn k = true) : s.keptBit v k = true := by
    simp only [State.stuckOn, Bool.and_eq_true, Bool.not_eq_true'] at on
    obtain ⟨on, off⟩ := on
    simp [-BitVec.getLsbD_eq_getElem, State.keptBit, State.askedBit, off, on]
  refine ⟨among, fun {k} off => ?_, ?_, ?_⟩
  · change (s.legalExt v).getLsbD k = s.cfg.misaExt.getLsbD k
    cases on : s.cfg.misaExt.getLsbD k
    · exact Bool.eq_false_iff.mpr fun set => Bool.false_ne_true (on.symm.trans (among set))
    · have hk : k < 26 := BitVec.lt_of_getLsbD on
      have stuckOn := stuck off on
      rw [bit hk, kept_of_stuck stuckOn]
      by_cases isS : k = Config.bitS
      · subst isS
        have stuckOn : s.stuckOn 18 = true := stuckOn
        simp [State.keptBit, stuckOn, Config.bitS, Config.bitU, Config.bitH]
      · by_cases isH : k = Config.bitH
        · subst isH
          have stuckOn : s.stuckOn 7 = true := stuckOn
          simp [State.keptBit, stuckOn, Config.bitS, Config.bitU, Config.bitH, Config.bitI]
        · simp [isS, isH]
  · change (s.legalExt v).getLsbD Config.bitS = true → (s.legalExt v).getLsbD Config.bitU = true
    rw [bit (by decide), bit (by decide)]
    simp +contextual [Config.bitS, Config.bitU, Config.bitH]
  · change (s.legalExt v).getLsbD Config.bitH = true →
      (s.legalExt v).getLsbD Config.bitS = true ∧ (s.legalExt v).getLsbD Config.bitI = true
    rw [bit (by decide), bit (by decide), bit (by decide)]
    simp +contextual [Config.bitS, Config.bitI, Config.bitH]

theorem State.extLegal_csrWrite {s t : State} {r : CsrReg} {v : Word} (cfg : s.cfg.wf = true) (h : s.extLegal = true)
    (write : s.csrWrite r v = some t) : t.extLegal = true := by
  have sameCfg := State.csrWrite_cfg write
  by_cases hr : r = .misa
  · subst hr
    obtain kept | ⟨set, -⟩ := s.writeMisa_ext v
    · rw [← State.csrWrite_misa write] at kept
      rwa [State.extLegal_congr sameCfg kept]
    · rw [← State.csrWrite_misa write] at set
      rw [State.extLegal_congr (s := { s with ext := s.legalExt v }) sameCfg set, State.extLegal_iff]
      exact .legalExt (configRules cfg) (s.extLegal_iff.mp h) v
  · rwa [State.extLegal_congr sameCfg (SetupKept.csrWrite hr write).ext]

section
variable {s t : State} (h : PcAndCsrsKept s t)
include h

theorem PcAndCsrsKept.cfg_eq : t.cfg = s.cfg := by rw [h.same]
theorem PcAndCsrsKept.ext_eq : t.ext = s.ext := by rw [h.same]
theorem PcAndCsrsKept.mstatus_eq : t.mstatus = s.mstatus := by rw [h.same]

end

theorem EndsAs.cfg_eq {i : Instr} {s t : State} (h : EndsAs i s t) : t.cfg = s.cfg := by
  cases h with
  | trap e kept => rw [State.takeException_cfg, kept.cfg_eq]
  | next kept => rw [State.retire_cfg, kept.cfg_eq]
  | jump kept aligned => rw [State.retireTo_cfg, kept.cfg_eq]
  | csr kept reached write => rw [State.csrWrite_cfg write, State.retireBefore_cfg, kept.cfg_eq]
  | mret is machine => rw [State.completeReturn_same]; rfl
  | sret is permitted => split <;> rw [State.completeReturn_same] <;> rfl

/-- Over every instruction the extensions in force stay legal (R105). -/
theorem EndsAs.extLegal {i : Instr} {s t : State} (h : EndsAs i s t) (cfg : s.cfg.wf = true)
    (legal : s.extLegal = true) : t.extLegal = true := by
  cases h with
  | trap e kept => rwa [State.extLegal_congr (s := s) (by simp [kept.cfg_eq]) (by simp [kept.ext_eq])]
  | next kept => rwa [State.extLegal_congr (s := s) (by simp [kept.cfg_eq]) (by simp [kept.ext_eq])]
  | jump kept aligned => rwa [State.extLegal_congr (s := s) (by simp [kept.cfg_eq]) (by simp [kept.ext_eq])]
  | csr kept reached write =>
    refine State.extLegal_csrWrite (by simpa [kept.cfg_eq]) ?_ write
    rwa [State.extLegal_congr (s := s) (by simp [kept.cfg_eq]) (by simp [kept.ext_eq])]
  | mret is machine => rw [State.completeReturn_same]; exact legal
  | sret is permitted => split <;> rw [State.completeReturn_same] <;> exact legal

theorem State.extLegal_resetOf {c : Config} (wf : c.wf = true) : (State.resetOf c).extLegal = true := by
  rw [State.extLegal_iff]
  exact ⟨id, fun _ => rfl, (configRules wf).userMode, (configRules wf).guestModes⟩

/-- A step keeps the configuration, and the extensions legal. -/
theorem StepEnds.legal {s t : State} (h : StepEnds s t) (cfg : s.cfg.wf = true) (legal : s.extLegal = true) :
    t.cfg.wf = true ∧ t.extLegal = true := by
  have kept {u v : State} (prepared : Prepared s u) (sameCfg : v.cfg = u.cfg) (sameExt : v.ext = u.ext) :
      v.cfg.wf = true ∧ v.extLegal = true := by
    rw [State.extLegal_congr (s := s) (sameCfg.trans prepared.cfg_eq) (sameExt.trans prepared.ext_eq), sameCfg,
      prepared.cfg_eq]
    exact ⟨cfg, legal⟩
  cases h with
  | reset prepared asked =>
    have wf := prepared.cfg_eq ▸ cfg
    exact ⟨wf, State.extLegal_resetOf wf⟩
  | nmi prepared => exact kept prepared rfl rfl
  | sleep prepared => exact kept prepared rfl rfl
  | interrupt prepared due => exact kept prepared (State.enter_cfg _ _ _) (State.enter_ext _ _ _)
  | trap w e prepared => exact kept prepared (State.takeException_cfg _ _ _) (State.takeException_ext _ _ _)
  | exec i prepared ends =>
    obtain ⟨wf, legal⟩ := kept prepared rfl rfl
    exact ⟨ends.cfg_eq ▸ wf, ends.extLegal wf legal⟩

/-! ## Alignment of `pc` -/

theorem State.aligned_iff (s : State) (v : Word) :
    s.aligned v = true ↔ v.getLsbD 0 = false ∧ (s.hasC = true ∨ v.getLsbD 1 = false) := by
  unfold State.aligned State.ialign
  simp only [BitVec.getLsbD, Nat.testBit_eq_decide_div_mod_eq, beq_iff_eq, decide_eq_false_iff_not]
  cases s.hasC
  · simp
    omega
  · simp

theorem State.pcAligned_iff (s : State) :
    s.pcAligned = true ↔ s.pc.getLsbD 0 = false ∧ (s.hasC = true ∨ s.pc.getLsbD 1 = false) := s.aligned_iff s.pc

theorem sxTo_bit_zero (xl : Xlen) (v : Word) : (sxTo xl v).getLsbD 0 = v.getLsbD 0 :=
  sxTo_getLsbD_of_lt _ _ (by omega)

theorem sxTo_bit_one (xl : Xlen) (v : Word) : (sxTo xl v).getLsbD 1 = v.getLsbD 1 :=
  sxTo_getLsbD_of_lt _ _ (by omega)

theorem bit_zero_of_next_pc (xl : Xlen) (pc : Word) : (sxTo xl (pc + 4)).getLsbD 0 = pc.getLsbD 0 := by
  rw [sxTo_bit_zero]
  simp only [BitVec.getLsbD, Nat.testBit_eq_decide_div_mod_eq, BitVec.toNat_add, decide_eq_decide]
  have four : (4 : Word).toNat = 4 := rfl
  omega

/-- A trap vector is 4-byte aligned (R884). -/
theorem trapVector_bits (xl : Xlen) (tvec : Word) (isInt : Bool) (code : Nat) :
    (trapVector xl tvec isInt code).getLsbD 0 = false ∧ (trapVector xl tvec isInt code).getLsbD 1 = false := by
  have base : (tvec &&& ~~~3#64).toNat % 4 = 0 := by
    have clear : (tvec &&& ~~~3#64).extractLsb' 0 2 = 0#2 := by
      ext k hk
      have : k = 0 ∨ k = 1 := by omega
      obtain rfl | rfl := this <;> simp
    simpa using congrArg BitVec.toNat clear
  have target (v : Word) (h : v.toNat % 4 = 0) : v.getLsbD 0 = false ∧ v.getLsbD 1 = false := by
    simp only [BitVec.getLsbD, Nat.testBit_eq_decide_div_mod_eq, decide_eq_false_iff_not]
    omega
  unfold trapVector
  dsimp only
  rw [sxTo_bit_zero, sxTo_bit_one]
  apply target
  split
  · rw [BitVec.toNat_add, BitVec.toNat_ofNat]
    omega
  · exact base

theorem State.enter_pc_bits (s : State) (d : Dest) (i : TrapInfo) :
    (s.enter d i).pc.getLsbD 0 = false ∧ (s.enter d i).pc.getLsbD 1 = false := by
  cases d <;> exact trapVector_bits _ _ _ _

theorem State.retireBefore_pc (s : State) (w : Bool) (r : CsrReg) : (s.retireBefore w r).pc = sxTo s.xlen (s.pc + 4) := by
  unfold State.retireBefore
  split
  · rfl
  · exact s.retire_pc

/-- `xepc` as read is IALIGN-aligned (R170). -/
theorem State.aligned_epcRead (s : State) (v : Word) : s.aligned (s.epcRead v) = true := by
  rw [State.aligned_iff]
  unfold State.epcRead
  cases s.hasC <;> simp

theorem State.aligned_sxTo (s : State) (xl : Xlen) (v : Word) : s.aligned (sxTo xl v) = s.aligned v := by
  rw [Bool.eq_iff_iff, State.aligned_iff, State.aligned_iff, sxTo_bit_zero, sxTo_bit_one]

theorem State.aligned_congr {s t : State} (ext : t.ext = s.ext) (v : Word) : t.aligned v = s.aligned v := by
  unfold State.aligned State.ialign State.hasC State.hasExt
  rw [ext]

/-- The address of the next instruction is as aligned as that of this one. -/
theorem State.aligned_next (s : State) (xl : Xlen) : s.aligned (sxTo xl (s.pc + 4)) = s.pcAligned := by
  rw [Bool.eq_iff_iff, State.aligned_iff, State.pcAligned_iff, bit_zero_of_next_pc, bit_one_of_next_pc]

theorem State.pcAligned_csrWrite {s t : State} {r : CsrReg} {v : Word} (aligned : s.pcAligned = true)
    (write : s.csrWrite r v = some t) : t.pcAligned = true := by
  have pc := CsrTouched.pc_eq (CsrTouched.csrWrite _ _ _ _ write)
  have same (ext : t.ext = s.ext) : t.pcAligned = true := by
    change t.aligned t.pc = true
    rw [State.aligned_congr ext, pc]
    exact aligned
  by_cases hr : r = .misa
  · subst hr
    obtain kept | ⟨set, going⟩ := s.writeMisa_ext v
    · exact same (by rw [State.csrWrite_misa write, kept])
    · rw [← State.csrWrite_misa write] at set
      rw [State.pcAligned_iff] at aligned ⊢
      obtain ⟨zero, one⟩ := aligned
      rw [pc]
      refine ⟨zero, ?_⟩
      have hasC : t.hasC = (s.legalExt v).getLsbD Config.bitC := by rw [← set]; rfl
      rw [hasC]
      cases on : (s.legalExt v).getLsbD Config.bitC
      · obtain hadC | clear := one
        · right
          simpa [on, hadC] using going
        · exact .inr clear
      · exact .inl rfl
  · exact same (SetupKept.csrWrite hr write).ext

theorem EndsAs.pcAligned {i : Instr} {s t : State} (h : EndsAs i s t) (aligned : s.pcAligned = true) :
    t.pcAligned = true := by
  cases h with
  | trap e kept =>
    obtain ⟨zero, one⟩ := State.enter_pc_bits _ _ _
    exact (State.pcAligned_iff _).mpr ⟨zero, .inr one⟩
  | @next u kept =>
    change State.aligned _ u.retire.pc = true
    rw [State.aligned_congr (s := s) (by simp [kept.ext_eq]), State.retire_pc, kept.pc_eq, State.aligned_next, aligned]
  | @jump u target kept reaches =>
    change State.aligned _ (u.retireTo target).pc = true
    rwa [State.aligned_congr (s := s) (by simp [kept.ext_eq]), State.retireTo_pc, State.aligned_sxTo]
  | @csr u _ r v kept reached write =>
    refine State.pcAligned_csrWrite ?_ write
    change State.aligned _ (u.retireBefore true r).pc = true
    rw [State.aligned_congr (s := s) (by simp [kept.ext_eq]), State.retireBefore_pc, kept.pc_eq, State.aligned_next, aligned]
  | mret is machine =>
    rw [State.completeReturn_same]
    change State.aligned s (sxTo _ (s.epcRead _)) = true
    rw [State.aligned_sxTo, State.aligned_epcRead]
  | sret is permitted =>
    split <;> rw [State.completeReturn_same] <;> change State.aligned s (sxTo _ (s.epcRead _)) = true <;>
      rw [State.aligned_sxTo, State.aligned_epcRead]

theorem and_one_bits {v : Word} (h : v &&& 1 = 0) : v.getLsbD 0 = false := by
  simpa using congrArg (fun w : Word => w.getLsbD 0) h

theorem and_three_bits {v : Word} (h : v &&& 3 = 0) : v.getLsbD 0 = false ∧ v.getLsbD 1 = false :=
  ⟨by simpa using congrArg (fun w : Word => w.getLsbD 0) h, by simpa using congrArg (fun w : Word => w.getLsbD 1) h⟩

/-- The reset vector is aligned for the extensions after reset (R961). -/
theorem State.pcAligned_resetOf {c : Config} (rules : ConfigRules c) : (State.resetOf c).pcAligned = true := by
  rw [State.pcAligned_iff]
  have vector := rules.resetVector
  change c.resetVector.getLsbD 0 = false ∧ (c.misaExt.getLsbD Config.bitC = true ∨ c.resetVector.getLsbD 1 = false)
  split at vector
  · next hasC => exact ⟨and_one_bits vector, .inl hasC⟩
  · exact ⟨(and_three_bits vector).1, .inr (and_three_bits vector).2⟩

/-- The NMI vector is aligned: where it is so by 2 only, C cannot be switched off (R905, R961). -/
theorem State.aligned_nmiVector {s : State} (rules : ConfigRules s.cfg) (legal : s.ExtRules) :
    s.aligned s.cfg.nmiVector = true := by
  rw [State.aligned_iff]
  have vector := rules.nmiVector
  split at vector
  · exact ⟨(and_three_bits vector).1, .inr (and_three_bits vector).2⟩
  · next never =>
    simp only [Config.canIalign32, Bool.or_eq_true, Bool.not_eq_true', not_or, Bool.not_eq_false, Bool.not_eq_true] at never
    obtain ⟨has, fixed⟩ := never
    exact ⟨and_one_bits vector, .inl ((legal.fixed fixed).trans has)⟩

/-- Settles O9: vectors, saved addresses as read and the targets of jumps are aligned, the next instruction is as aligned
as this one, and a write of `misa` that would misalign it is suppressed. -/
theorem stepKeepsPcAligned : Obligations.StepKeepsPcAligned := by
  unfold Obligations.StepKeepsPcAligned
  rintro s t ⟨cfg, legal, aligned⟩ run
  have ends := stepEnds_of_step run
  obtain ⟨wf, legal'⟩ := ends.legal cfg legal
  refine ⟨wf, legal', ?_⟩
  have same {u : State} (prepared : Prepared s u) : u.pcAligned = true := by
    change u.aligned u.pc = true
    rw [State.aligned_congr prepared.ext_eq, prepared.pc_eq]
    exact aligned
  cases ends with
  | reset prepared asked => exact State.pcAligned_resetOf (configRules wf)
  | @nmi u prepared =>
    change State.aligned u (sxTo _ u.cfg.nmiVector) = true
    rw [State.aligned_sxTo]
    exact State.aligned_nmiVector (configRules wf) (by rwa [← State.extLegal_iff])
  | sleep prepared => exact same prepared
  | interrupt prepared due =>
    obtain ⟨zero, one⟩ := State.enter_pc_bits _ _ _
    exact (State.pcAligned_iff _).mpr ⟨zero, .inr one⟩
  | trap w e prepared =>
    obtain ⟨zero, one⟩ := State.enter_pc_bits _ _ _
    exact (State.pcAligned_iff _).mpr ⟨zero, .inr one⟩
  | exec i prepared ends => exact ends.pcAligned (same prepared)

end Sys2Proof.Machine
end

section
/-! Which interrupt is taken, and where it goes (R888 to R893); no trap goes to a less privileged mode (R881). -/

namespace Sys2Proof.Machine

open Sys2Proof

/-! ## The service order (R893) -/

/-- The codes of implemented interrupts: the ones the service order knows. -/
def servedCode (i : Nat) : Bool := decide (i ∈ standardOrder) || (decide (16 ≤ i) && decide (i < 64))

theorem mem_platformOrder_iff (i : Nat) : i ∈ platformOrder ↔ 16 ≤ i ∧ i < 64 := by
  simp only [platformOrder, List.mem_reverse, List.mem_map, List.mem_range]
  constructor
  · rintro ⟨k, hk, rfl⟩
    omega
  · intro h
    exact ⟨i - 16, by omega, by omega⟩

theorem platformOrder_length : platformOrder.length = 48 := by simp [platformOrder]

theorem platformOrder_getElem {k : Nat} (hk : k < platformOrder.length) : platformOrder[k] = 63 - k := by
  rw [platformOrder_length] at hk
  simp [platformOrder]
  omega

theorem standardOrder_nodup : standardOrder.Nodup := by decide

/-- The first platform code of a set is the highest. -/
theorem find_platformOrder {p : Nat → Bool} {i : Nat} (h : platformOrder.find? p = some i) :
    p i = true ∧ 16 ≤ i ∧ i < 64 ∧ ∀ j, 16 ≤ j → j < 64 → p j = true → j ≤ i := by
  obtain ⟨mem, k, hk, rfl, first⟩ := List.find?_eq_some_iff_getElem.mp h
  refine ⟨mem, ?_⟩
  rw [platformOrder_getElem hk]
  have bound := hk
  rw [platformOrder_length] at bound
  refine ⟨by omega, by omega, fun j low high set => ?_⟩
  by_contra later
  have before := first (63 - j) (by omega)
  rw [platformOrder_getElem (by rw [platformOrder_length]; omega), show 63 - (63 - j) = j by omega, set] at before
  exact absurd before (by decide)

/-- The first standard code of a set is the one that stands first in the order. -/
theorem find_standardOrder {p : Nat → Bool} {i : Nat} (h : standardOrder.find? p = some i) :
    p i = true ∧ i ∈ standardOrder ∧
      ∀ j ∈ standardOrder, p j = true → standardOrder.idxOf i ≤ standardOrder.idxOf j := by
  obtain ⟨mem, k, hk, rfl, first⟩ := List.find?_eq_some_iff_getElem.mp h
  refine ⟨mem, List.getElem_mem hk, fun j member set => ?_⟩
  rw [standardOrder_nodup.idxOf_getElem k hk]
  by_contra later
  have place := List.idxOf_lt_length_of_mem member
  have before := first (standardOrder.idxOf j) (by omega)
  rw [List.getElem_idxOf place, set] at before
  exact absurd before (by decide)

theorem serviceRank_platform (platformFirst : Bool) {i : Nat} (h : 16 ≤ i) :
    serviceRank platformFirst i = if platformFirst then 64 - i else 264 - i := if_pos h

theorem serviceRank_standard (platformFirst : Bool) {i : Nat} (h : i ∈ standardOrder) :
    serviceRank platformFirst i = 100 + standardOrder.idxOf i ∧ standardOrder.idxOf i < 10 := by
  have small : i < 16 := by
    have all : ∀ j ∈ standardOrder, j < 16 := by decide
    exact all i h
  exact ⟨if_neg (by omega), List.idxOf_lt_length_of_mem h⟩

theorem pickInterrupt_eq_none {platformFirst : Bool} {set : Word} (h : pickInterrupt platformFirst set = none) {i : Nat}
    (served : servedCode i = true) : set.getLsbD i = false := by
  have both : standardOrder.find? (fun i => set.getLsbD i) = none
      ∧ platformOrder.find? (fun i => set.getLsbD i) = none := by
    unfold pickInterrupt at h
    cases platformFirst <;> simp only [Option.or_eq_none_iff, if_true, Bool.false_eq_true, if_false] at h
    · exact h
    · exact h.symm
  obtain ⟨standard, platform⟩ := both
  simp only [List.find?_eq_none, Bool.not_eq_true] at standard platform
  simp only [servedCode, Bool.or_eq_true, Bool.and_eq_true, decide_eq_true_eq] at served
  obtain member | range := served
  · exact standard i member
  · exact platform i ((mem_platformOrder_iff i).mpr range)

/-- What is served is in the set, and comes first in the service order among what is. -/
theorem pickInterrupt_eq_some {platformFirst : Bool} {set : Word} {i : Nat} (h : pickInterrupt platformFirst set = some i) :
    set.getLsbD i = true ∧ ∀ j, servedCode j = true → set.getLsbD j = true →
      serviceRank platformFirst i ≤ serviceRank platformFirst j := by
  have served {j : Nat} (hj : servedCode j = true) : j ∈ standardOrder ∨ 16 ≤ j ∧ j < 64 := by
    simpa [servedCode] using hj
  have unset {l : List Nat} (none : l.find? (fun i => set.getLsbD i) = none) {j : Nat} (member : j ∈ l) :
      set.getLsbD j ≠ true := List.find?_eq_none.mp none j member
  unfold pickInterrupt at h
  cases platformFirst <;> simp only [if_true, Bool.false_eq_true, if_false, Option.or_eq_some_iff] at h
  · obtain first | ⟨none, second⟩ := h
    · obtain ⟨set_i, member, least⟩ := find_standardOrder first
      refine ⟨set_i, fun j hj set_j => ?_⟩
      obtain ⟨rank, bound⟩ := serviceRank_standard false member
      obtain standard | ⟨low, high⟩ := served hj
      · have := least j standard set_j
        have := (serviceRank_standard false standard).1
        omega
      · have := serviceRank_platform false low
        simp only [Bool.false_eq_true, if_false] at this
        omega
    · obtain ⟨set_i, low, high, highest⟩ := find_platformOrder second
      refine ⟨set_i, fun j hj set_j => ?_⟩
      obtain standard | ⟨lowj, highj⟩ := served hj
      · exact absurd set_j (unset none standard)
      · have := highest j lowj highj set_j
        simp only [serviceRank_platform false low, serviceRank_platform false lowj, Bool.false_eq_true, if_false]
        omega
  · obtain first | ⟨none, second⟩ := h
    · obtain ⟨set_i, low, high, highest⟩ := find_platformOrder first
      refine ⟨set_i, fun j hj set_j => ?_⟩
      have rank := serviceRank_platform true low
      simp only [if_true] at rank
      obtain standard | ⟨lowj, highj⟩ := served hj
      · have := (serviceRank_standard true standard).1
        omega
      · have := highest j lowj highj set_j
        have := serviceRank_platform true lowj
        simp only [if_true] at this
        omega
    · obtain ⟨set_i, member, least⟩ := find_standardOrder second
      refine ⟨set_i, fun j hj set_j => ?_⟩
      obtain standard | range := served hj
      · have := least j standard set_j
        have := (serviceRank_standard true standard).1
        have := (serviceRank_standard true member).1
        omega
      · exact absurd set_j (unset none ((mem_platformOrder_iff j).mpr range))

/-! ## The sets destined for each mode (R888, R890 to R892) -/

/-- The pending interrupts of destination `d`. -/
def State.destined (s : State) : Dest → Word
  | .m => s.toM
  | .s => s.toHS
  | .vs => s.toVS

/-- Interrupts of destination `d` are enabled. -/
def State.enabledFor (s : State) : Dest → Bool
  | .m => s.enabledM
  | .s => s.enabledS
  | .vs => s.enabledVS

/-- An enabled interrupt has a code that the service order knows. -/
theorem State.servedCode_of_mie {s : State} {i : Nat} (h : s.mie.getLsbD i = true) : servedCode i = true := by
  have machine (k : Nat) : (0x888#64).getLsbD k = decide (k ∈ [3, 7, 11]) :=
    getLsbD_eq_of_fin (p := fun k => decide (k ∈ [3, 7, 11])) (by decide) (fun k _ => by simp; omega) k
  have implemented : s.mieMask.getLsbD i = true := by
    rw [State.mie, BitVec.getLsbD_and, Bool.and_eq_true] at h
    exact h.2
  have supervisor : s.sBits.getLsbD i = true → i ∈ [1, 5, 9] := by
    intro set
    unfold State.sBits at set
    split at set
    · rw [BitVec.getLsbD_and, supervisorBits_getLsbD, Bool.and_eq_true, decide_eq_true_eq] at set
      exact set.2
    · simp at set
  simp only [State.mieMask, BitVec.getLsbD_or, machine, s.hBits_getLsbD, s.platBits_getLsbD, Bool.or_eq_true,
    Bool.and_eq_true, decide_eq_true_eq, beq_iff_eq] at implemented
  have width := thirtyTwo_le_bits s.mxlen
  have width' := bits_le s.mxlen
  simp only [servedCode, standardOrder, Bool.or_eq_true, Bool.and_eq_true, decide_eq_true_eq]
  obtain ((m | set) | ⟨-, vs | ⟨gei, -⟩⟩) | ⟨⟨-, low⟩, high⟩ := implemented
  · simp at m ⊢; omega
  · have := supervisor set
    simp at this ⊢; omega
  · simp at vs ⊢; omega
  · simp [gei]
  · exact .inr ⟨low, by omega⟩

/-- `take` for a destination: its interrupts are enabled, and this one is pending for it. -/
theorem State.takes_eq (s : State) (d : Dest) (i : Nat) :
    s.takes d i = (s.enabledFor d && (s.destined d).getLsbD i) := by
  have enabled_served (hi : ¬ i < 64) : s.mip.getLsbD i = false := BitVec.getLsbD_of_ge _ _ (by omega)
  have supervisor_user : (Priv.supervisor == Priv.user) = false := rfl
  have supervisor_machine : (Priv.supervisor != Priv.machine) = true := rfl
  by_cases hi : i < 64
  case neg => cases d <;> simp [State.takes, State.takesM, State.takesHS, State.takesVS, State.destined, State.toM,
    State.toHS, State.toVS, State.pending, enabled_served hi]
  cases d
  case m =>
    simp only [State.takes, State.takesM, State.enabledFor, State.enabledM, State.destined, State.toM, State.pending,
      BitVec.getLsbD_and, BitVec.getLsbD_not, hi]
    cases s.priv <;> simp [Bool.and_comm]
  case s =>
    simp only [State.takes, State.takesHS, State.enabledFor, State.enabledS, State.destined, State.toHS, State.pending,
      BitVec.getLsbD_and, BitVec.getLsbD_not, hi]
    cases s.priv <;> cases s.virt <;> simp [Bool.and_comm, supervisor_user, supervisor_machine]
  case vs =>
    simp only [State.takes, State.takesVS, State.enabledFor, State.enabledVS, State.destined, State.toVS, State.pending,
      BitVec.getLsbD_and]
    cases s.priv <;> cases s.virt <;> simp [Bool.and_comm, supervisor_user]

theorem State.servedCode_of_destined {s : State} {d : Dest} {i : Nat} (h : (s.destined d).getLsbD i = true) :
    servedCode i = true := by
  refine State.servedCode_of_mie (s := s) ?_
  cases d <;> simp only [State.destined, State.toM, State.toHS, State.toVS, State.pending, BitVec.getLsbD_and,
    Bool.and_eq_true] at h
  · exact h.1.2
  · exact h.1.1.2
  · exact h.1.1.2

/-! ## The interrupt taken -/

/-- What goes to destination `d`, if its turn comes. -/
def State.candidate (s : State) (d : Dest) : Option (Dest × Nat) :=
  if s.enabledFor d then (pickInterrupt s.cfg.platformFirst (s.destined d)).map fun i => (d, i) else none

theorem State.interrupt_eq (s : State) :
    s.interrupt = (s.candidate .m).or ((s.candidate .s).or (s.candidate .vs)) := rfl

theorem State.candidate_eq_none_iff (s : State) (d : Dest) : s.candidate d = none ↔ ∀ i, s.takes d i = false := by
  unfold State.candidate
  simp only [s.takes_eq]
  cases s.enabledFor d
  · simp
  · simp only [if_true, Option.map_eq_none_iff, Bool.true_and]
    constructor
    · intro none i
      cases set : (s.destined d).getLsbD i
      · rfl
      · exact set.symm.trans (pickInterrupt_eq_none none (State.servedCode_of_destined set))
    · intro unset
      cases picked : pickInterrupt s.cfg.platformFirst (s.destined d) with
      | none => rfl
      | some i => exact absurd ((pickInterrupt_eq_some picked).1.symm.trans (unset i)) (by decide)

theorem State.candidate_eq_some {s : State} {d d' : Dest} {i : Nat} (h : s.candidate d = some (d', i)) :
    d' = d ∧ s.takes d i = true ∧
      ∀ j, s.takes d j = true → serviceRank s.cfg.platformFirst i ≤ serviceRank s.cfg.platformFirst j := by
  unfold State.candidate at h
  simp only [s.takes_eq]
  cases on : s.enabledFor d
  · simp [on] at h
  · simp only [on, if_true, Option.map_eq_some_iff, Prod.mk.injEq] at h
    obtain ⟨_, picked, rfl, rfl⟩ := h
    obtain ⟨set, least⟩ := pickInterrupt_eq_some picked
    simp only [Bool.true_and]
    exact ⟨trivial, set, fun j set_j => least j (State.servedCode_of_destined set_j) set_j⟩

theorem State.candidate_exists {s : State} {d : Dest} (h : ∃ i, s.takes d i = true) :
    ∃ j, s.candidate d = some (d, j) := by
  obtain ⟨i, takes⟩ := h
  cases picked : s.candidate d with
  | none => exact absurd (takes.symm.trans ((s.candidate_eq_none_iff d).mp picked i)) (by decide)
  | some found =>
    obtain ⟨d', j⟩ := found
    obtain ⟨rfl, -⟩ := State.candidate_eq_some picked
    exact ⟨j, rfl⟩

/-- The interrupt taken is one that its destination takes, first in the service order there, and no destination before it
takes any. -/
theorem State.interrupt_eq_some {s : State} {d : Dest} {i : Nat} (h : s.interrupt = some (d, i)) :
    s.candidate d = some (d, i) ∧ (d ≠ .m → s.candidate .m = none) ∧ (d = .vs → s.candidate .s = none) := by
  rw [State.interrupt_eq, Option.or_eq_some_iff, Option.or_eq_some_iff] at h
  obtain first | ⟨noM, second | ⟨noS, third⟩⟩ := h
  · obtain ⟨rfl, -⟩ := State.candidate_eq_some first
    exact ⟨first, fun other => absurd rfl other, nofun⟩
  · obtain ⟨rfl, -⟩ := State.candidate_eq_some second
    exact ⟨second, fun _ => noM, nofun⟩
  · obtain ⟨rfl, -⟩ := State.candidate_eq_some third
    exact ⟨third, fun _ => noM, fun _ => noS⟩

theorem State.takes_of_interrupt {s : State} {d : Dest} {i : Nat} (h : s.interrupt = some (d, i)) :
    s.takes d i = true := (State.candidate_eq_some (State.interrupt_eq_some h).1).2.1

/-- Settles O18: the set for M-mode is asked first, and every code in it is served. -/
theorem interruptsIntoMachineMode : Obligations.InterruptsIntoMachineMode := by
  unfold Obligations.InterruptsIntoMachineMode
  intro s
  refine ⟨fun i taken => State.takes_of_interrupt taken, fun some => ?_⟩
  obtain ⟨j, first⟩ := State.candidate_exists (d := .m) some
  exact ⟨j, by rw [State.interrupt_eq, first]; rfl⟩

/-- Settles O19: the set for S-mode is asked when that for M-mode gives nothing. -/
theorem interruptsIntoSupervisorMode : Obligations.InterruptsIntoSupervisorMode := by
  unfold Obligations.InterruptsIntoSupervisorMode
  intro s
  refine ⟨fun i taken => ?_, fun noM some => ?_⟩
  · have before := (State.interrupt_eq_some taken).2.1 (by decide)
    exact ⟨State.takes_of_interrupt taken, (s.candidate_eq_none_iff .m).mp before⟩
  · obtain ⟨j, second⟩ := State.candidate_exists (d := .s) some
    exact ⟨j, by rw [State.interrupt_eq, (s.candidate_eq_none_iff .m).mpr noM, second]; rfl⟩

/-- Settles O20: the set for VS-mode is asked last. -/
theorem interruptsIntoVirtualSupervisorMode : Obligations.InterruptsIntoVirtualSupervisorMode := by
  unfold Obligations.InterruptsIntoVirtualSupervisorMode
  intro s
  refine ⟨fun i taken => ?_, fun noM noS some => ?_⟩
  · obtain ⟨-, beforeM, beforeS⟩ := State.interrupt_eq_some taken
    exact ⟨State.takes_of_interrupt taken, (s.candidate_eq_none_iff .m).mp (beforeM (by decide)),
      (s.candidate_eq_none_iff .s).mp (beforeS rfl)⟩
  · obtain ⟨j, third⟩ := State.candidate_exists (d := .vs) some
    refine ⟨j, ?_⟩
    rw [State.interrupt_eq, (s.candidate_eq_none_iff .m).mpr noM, (s.candidate_eq_none_iff .s).mpr noS, third]
    rfl

/-- Settles O21: of the set for its destination the interrupt taken has the least rank. -/
theorem interruptServiceOrder : Obligations.InterruptServiceOrder := by
  unfold Obligations.InterruptServiceOrder
  intro s d i j taken other
  exact (State.candidate_eq_some (State.interrupt_eq_some taken).1).2.2 j other

/-! ## The modes a trap comes from and goes to (R881) -/

/-- What an interrupt into S-mode or VS-mode presupposes of the mode it comes from. -/
theorem State.interrupt_from {s : State} {d : Dest} {i : Nat} (h : s.interrupt = some (d, i)) :
    (d ≠ .m → s.priv ≠ .machine ∧ s.mideleg.getLsbD i = true)
      ∧ (d = .vs → s.virt = true ∧ s.hideleg.getLsbD i = true) := by
  have takes := State.takes_of_interrupt h
  cases d with
  | m => exact ⟨fun other => absurd rfl other, nofun⟩
  | s =>
    simp only [State.takes, State.takesHS, Bool.and_eq_true, bne_iff_ne] at takes
    obtain ⟨⟨⟨⟨-, delegated⟩, -⟩, below⟩, -⟩ := takes
    exact ⟨fun _ => ⟨below, delegated⟩, nofun⟩
  | vs =>
    simp only [State.takes, State.takesVS, Bool.and_eq_true, Bool.or_eq_true, beq_iff_eq] at takes
    obtain ⟨⟨⟨⟨-, delegated⟩, guest⟩, virt⟩, mode⟩ := takes
    refine ⟨fun _ => ⟨?_, delegated⟩, fun _ => ⟨virt, guest⟩⟩
    obtain ⟨super, -⟩ | user := mode
    · simp [super]
    · simp [user]

/-- A trap into `d` from a mode below M, into VS-mode from V = 1 only, goes up. -/
theorem State.enter_upward {s : State} {d : Dest} (t : TrapInfo) (below : d ≠ .m → s.priv ≠ .machine)
    (guest : d = .vs → s.virt = true) :
    rankOf s.priv s.virt ≤ rankOf (s.enter d t).priv (s.enter d t).virt
      ∧ ((s.enter d t).virt = true → s.virt = true) := by
  cases d with
  | m =>
    change rankOf s.priv s.virt ≤ 4 ∧ (false = true → _)
    refine ⟨?_, nofun⟩
    unfold rankOf
    split <;> omega
  | s =>
    change rankOf s.priv s.virt ≤ 3 ∧ (false = true → _)
    refine ⟨?_, nofun⟩
    have := below (by decide)
    cases mode : s.priv <;> cases s.virt <;> simp_all [rankOf]
  | vs =>
    change rankOf s.priv s.virt ≤ 2 ∧ (true = true → _)
    have := below (by decide)
    have virt := guest rfl
    refine ⟨?_, fun _ => virt⟩
    cases mode : s.priv <;> simp_all [rankOf]

/-- Settles O17: a trap goes below M-mode only from below M-mode, and into VS-mode only from V = 1. -/
theorem noDownwardTraps : Obligations.NoDownwardTraps := by
  unfold Obligations.NoDownwardTraps
  intro s
  refine ⟨fun w e => ?_, fun d i taken => ?_⟩
  · refine State.enter_upward _ ?_ ?_ <;>
      obtain goesM | ⟨goesS, below, -⟩ | ⟨goesVs, below, -, -, -, virt, -⟩ := s.exceptionTarget_cases e.code <;>
        simp_all
  · obtain ⟨below, guest⟩ := State.interrupt_from taken
    exact State.enter_upward _ (fun other => (below other).1) (fun vs => (guest vs).1)

/-- Settles O16: the cases of the definition, condition by condition. -/
theorem exceptionDestination : Obligations.ExceptionDestination := by
  unfold Obligations.ExceptionDestination
  intro s c
  unfold State.exceptionTarget
  cases s.priv <;> cases s.hasS <;> cases s.medeleg.getLsbD c.code <;> cases s.hasH <;> cases s.virt <;>
    cases s.hedeleg.getLsbD c.code <;> rfl

end Sys2Proof.Machine
end

section
/-! The mode stays legal, MPP an implemented mode, and MPRV clear below M-mode, over every step (R31, R33, R117, R120). -/

namespace Sys2Proof.Machine

open Sys2Proof

/-- The part of the mode invariant that the step may change. -/
structure State.ModeOk (s : State) : Prop where
  mode : s.hasPriv s.priv = true
  guest : s.virt = true → s.hasH = true ∧ s.priv ≠ .machine
  mpp : s.hasPriv s.mstatus.mpp = true
  mprv : s.mstatus.mprv = true → s.priv = .machine

theorem State.modeInv_iff (s : State) : s.ModeInv ↔ s.cfg.wf = true ∧ s.extLegal = true ∧ s.ModeOk := by
  unfold State.ModeInv State.modeLegal
  simp only [Bool.and_eq_true, Bool.or_eq_true, Bool.not_eq_true', bne_iff_ne]
  constructor
  · rintro ⟨wf, legal, ⟨mode, guest⟩, mpp, mprv⟩
    exact ⟨wf, legal, mode, fun on => guest.resolve_left (by simp [on]), mpp, mprv⟩
  · rintro ⟨wf, legal, ok⟩
    refine ⟨wf, legal, ⟨ok.mode, ?_⟩, ok.mpp, ok.mprv⟩
    cases on : s.virt
    · exact .inl rfl
    · exact .inr (ok.guest on)

/-- Nothing of what the mode invariant speaks of has changed. -/
theorem State.ModeOk.congr {s t : State} (h : s.ModeOk) (ext : t.ext = s.ext) (priv : t.priv = s.priv)
    (virt : t.virt = s.virt) (mpp : t.mstatus.mpp = s.mstatus.mpp) (mprv : t.mstatus.mprv = s.mstatus.mprv) :
    t.ModeOk where
  mode := by rw [State.hasPriv_congr ext, priv]; exact h.mode
  guest := by
    have same : t.hasH = s.hasH := by rw [State.hasH, State.hasExt, ext]; rfl
    rw [virt, priv, same]
    exact h.guest
  mpp := by rw [State.hasPriv_congr ext, mpp]; exact h.mpp
  mprv := by rw [mprv, priv]; exact h.mprv

/-! ## Trap entry -/

/-- A trap enters a mode that is there, if it goes to S-mode or VS-mode only where the hart has it. -/
theorem State.ModeOk.enter {s : State} (h : s.ModeOk) {d : Dest} (t : TrapInfo)
    (below : d ≠ .m → s.priv ≠ .machine ∧ s.hasS = true) (guest : d = .vs → s.hasH = true) : (s.enter d t).ModeOk := by
  have unprivileged (other : d ≠ .m) : s.mstatus.mprv = true → False := fun on => (below other).1 (h.mprv on)
  cases d with
  | m => exact ⟨rfl, nofun, h.mode, fun _ => rfl⟩
  | s => exact ⟨(below (by decide)).2, nofun, h.mpp, fun on => (unprivileged (by decide) on).elim⟩
  | vs =>
    exact ⟨(below (by decide)).2, fun _ => ⟨guest rfl, (by decide : Priv.supervisor ≠ .machine)⟩, h.mpp,
      fun on => (unprivileged (by decide) on).elim⟩

theorem State.ModeOk.takeException {s : State} (h : s.ModeOk) (w : BitVec 32) (e : Excn) :
    (s.takeException w e).ModeOk := by
  refine h.enter _ ?_ ?_ <;>
    obtain goesM | ⟨goesS, below, hasS, -⟩ | ⟨goesVs, below, hasS, -, hasH, -⟩ := s.exceptionTarget_cases e.code <;>
      simp_all

/-- Interrupts are delegated only where S-mode is there (R145). -/
theorem State.hasS_of_mideleg {s : State} (rules : s.ExtRules) {i : Nat} (h : s.mideleg.getLsbD i = true) :
    s.hasS = true := by
  cases on : s.hasS
  · have noH : s.hasH = false := by
      cases hasH : s.hasH
      · rfl
      · exact absurd (on.symm.trans (rules.guestModes hasH).1) (by decide)
    simp [State.mideleg, State.midelegMask, State.midelegOnes, State.sBits, State.hBits, on, noH] at h
  · rfl

theorem State.hasH_of_hideleg {s : State} {i : Nat} (h : s.hideleg.getLsbD i = true) : s.hasH = true := by
  cases on : s.hasH
  · simp [State.hideleg, State.hidelegMask, on] at h
  · rfl

theorem State.ModeOk.takeInterrupt {s : State} (h : s.ModeOk) (rules : s.ExtRules) {d : Dest} {i : Nat}
    (due : s.interrupt = some (d, i)) : (s.takeInterrupt d i).ModeOk := by
  obtain ⟨below, guest⟩ := State.interrupt_from due
  exact h.enter _ (fun other => ⟨(below other).1, State.hasS_of_mideleg rules (below other).2⟩)
    (fun vs => State.hasH_of_hideleg (guest vs).2)

/-! ## Returns -/

theorem State.hasPriv_lowestPriv (s : State) : s.hasPriv s.lowestPriv = true := by
  unfold State.lowestPriv
  split
  · assumption
  · rfl

theorem State.ModeOk.completeReturn {s : State} (h : s.ModeOk) (epc : Word) : (s.completeReturn epc).ModeOk := by
  rw [State.completeReturn_same]
  exact h.congr rfl rfl rfl rfl rfl

/-- MRET goes to the mode of MPP, and clears MPRV on the way down (R754). -/
theorem State.ModeOk.returnFromM {s : State} (h : s.ModeOk) : s.returnFromM.ModeOk where
  mode := h.mpp
  guest := by
    change (s.hasH && (s.mstatus.mpp != .machine) && s.mstatus.mpv) = true → s.hasH = true ∧ s.mstatus.mpp ≠ .machine
    simp only [Bool.and_eq_true, bne_iff_ne]
    rintro ⟨⟨hasH, below⟩, -⟩
    exact ⟨hasH, below⟩
  mpp := s.hasPriv_lowestPriv
  mprv := by
    change (if s.mstatus.mpp = .machine then s.mstatus.mprv else false) = true → s.mstatus.mpp = .machine
    split
    · exact fun _ => ‹_›
    · nofun

/-- SRET goes to S-mode or U-mode (R780). -/
theorem State.ModeOk.returnFromS {s : State} (h : s.ModeOk) (rules : s.ExtRules) (hasS : s.hasS = true) :
    s.returnFromS.ModeOk where
  mode := by
    change s.hasPriv (if s.mstatus.spp then .supervisor else .user) = true
    split
    · exact hasS
    · exact rules.userMode hasS
  guest := by
    change (s.hasH && s.h.status.spv) = true → s.hasH = true ∧ (if s.mstatus.spp then Priv.supervisor else .user) ≠ .machine
    rw [Bool.and_eq_true]
    rintro ⟨hasH, -⟩
    refine ⟨hasH, ?_⟩
    split <;> decide
  mpp := h.mpp
  mprv := nofun

theorem State.ModeOk.returnFromVS {s : State} (h : s.ModeOk) (rules : s.ExtRules) (virt : s.virt = true) :
    s.returnFromVS.ModeOk where
  mode := by
    have hasS := (rules.guestModes (h.guest virt).1).1
    change s.hasPriv (if s.vs.status.spp then .supervisor else .user) = true
    split
    · exact hasS
    · exact rules.userMode hasS
  guest _ := by
    change s.hasH = true ∧ (if s.vs.status.spp then Priv.supervisor else .user) ≠ .machine
    refine ⟨(h.guest virt).1, ?_⟩
    split <;> decide
  mpp := h.mpp
  mprv on := absurd (h.mprv on) (h.guest virt).2

theorem State.hasS_of_sretPermit {s : State} (h : s.sretPermit = .ok) : s.hasS = true := by
  unfold State.sretPermit at h
  cases on : s.hasS
  · simp [on] at h
  · rfl

/-! ## CSR writes -/

/-- A CSR write in M-mode leaves MPP legal; below M-mode it reaches neither MPP nor MPRV nor the extensions (R117,
R120). -/
theorem State.ModeOk.csrWrite {s t : State} {r : CsrReg} {v : Word} (h : s.ModeOk)
    (reached : r.machineLevel = true → s.priv = .machine) (write : s.csrWrite r v = some t) : t.ModeOk := by
  have touched := CsrTouched.csrWrite _ _ _ _ write
  have priv : t.priv = s.priv := by unfold CsrTouched at touched; rw [touched]
  have virt : t.virt = s.virt := by unfold CsrTouched at touched; rw [touched]
  by_cases machine : s.priv = .machine
  · refine ⟨by rw [priv, machine]; rfl, fun on => ?_, State.hasPriv_csrWrite write h.mpp, fun _ => priv.trans machine⟩
    exact absurd machine (h.guest (virt ▸ on)).2
  · have kept := CsrKept.csrWrite (Bool.eq_false_iff.mpr (mt reached machine)) write
    exact h.congr kept.ext priv virt (by rw [kept.status]) (by rw [kept.status])

/-! ## The invariant -/

theorem State.ModeOk.of_kept {s t : State} (h : s.ModeOk) (kept : PcAndCsrsKept s t) : t.ModeOk :=
  h.congr kept.ext_eq kept.priv_eq kept.virt_eq (by rw [kept.mstatus_eq]) (by rw [kept.mstatus_eq])

theorem EndsAs.modeOk {i : Instr} {s t : State} (ends : EndsAs i s t) (rules : s.ExtRules) (h : s.ModeOk) : t.ModeOk := by
  cases ends with
  | trap e kept => exact (h.of_kept kept).takeException _ _
  | next kept => exact (h.of_kept kept).congr (by simp) (by simp) (by simp) (by simp) (by simp)
  | jump kept aligned => exact (h.of_kept kept).congr (by simp) (by simp) (by simp) (by simp) (by simp)
  | @csr u _ r v kept reached write =>
    have before := (h.of_kept kept).congr (u.retireBefore_ext true r) (u.retireBefore_priv _ _)
      (u.retireBefore_virt _ _) (by rw [State.retireBefore_mstatus]) (by rw [State.retireBefore_mstatus])
    exact before.csrWrite (fun level => by rw [State.retireBefore_priv, kept.priv_eq, reached level]) write
  | mret is machine => exact h.returnFromM.completeReturn _
  | sret is permitted =>
    split
    · next virt => exact (h.returnFromVS rules virt).completeReturn _
    · exact (h.returnFromS rules (State.hasS_of_sretPermit permitted)).completeReturn _

/-- After reset the hart is in M-mode (R960). -/
theorem State.modeOk_resetOf (c : Config) : (State.resetOf c).ModeOk where
  mode := rfl
  guest := nofun
  mpp := by
    change (State.resetOf c).hasPriv (if c.misaExt.getLsbD Config.bitU then .user else .machine) = true
    split
    · assumption
    · rfl
  mprv := nofun

/-- Settles O8: a trap enters, and an xRET returns to, a mode that is there; a CSR write keeps MPP legal, and below M-mode
keeps MPRV. -/
theorem stepKeepsModeLegal : Obligations.StepKeepsModeLegal := by
  unfold Obligations.StepKeepsModeLegal
  intro s t inv run
  rw [State.modeInv_iff] at inv ⊢
  obtain ⟨wf, legal, ok⟩ := inv
  have ends := stepEnds_of_step run
  obtain ⟨wf', legal'⟩ := ends.legal wf legal
  refine ⟨wf', legal', ?_⟩
  have rules := s.extLegal_iff.mp legal
  have same {u : State} (prepared : Prepared s u) : u.ModeOk :=
    ok.congr prepared.ext_eq prepared.priv_eq prepared.virt_eq (by rw [prepared.mstatus_eq])
      (by rw [prepared.mstatus_eq])
  have sameRules {u : State} (prepared : Prepared s u) : u.ExtRules := by
    rwa [← State.extLegal_iff, State.extLegal_congr prepared.cfg_eq prepared.ext_eq]
  cases ends with
  | reset prepared asked => exact (State.modeOk_resetOf _).congr rfl rfl rfl rfl rfl
  | nmi prepared => exact ⟨rfl, nofun, (same prepared).mode, fun _ => rfl⟩
  | sleep prepared => exact same prepared
  | interrupt prepared due => exact (same prepared).takeInterrupt (sameRules prepared) due
  | trap w e prepared => exact (same prepared).takeException w e
  | exec i prepared ends => exact ends.modeOk (sameRules prepared) (same prepared)

end Sys2Proof.Machine
end

section
/-! Trap entry register by register, the NMI, and reset (R880 to R885, R905, R960). -/

namespace Sys2Proof.Machine

open Sys2Proof

/-! ## Trap entry -/

/-- The vector, with the offset of vectored mode as a summand (R884). -/
theorem trapVector_eq (xl : Xlen) (tvec : Word) (isInt : Bool) (code : Nat) :
    trapVector xl tvec isInt code = sxTo xl ((tvec &&& ~~~3#64)
      + (if isInt && tvec.getLsbD 0 then BitVec.ofNat 64 (4 * code) else 0)) := by
  unfold trapVector
  split <;> simp

theorem savedMtval_tvalValue (c : Config) (xl : Xlen) (v : Word) :
    SavedMtval c xl v (if c.mtvalReadOnlyZero then 0 else tvalValue c xl v) := by
  unfold SavedMtval
  split
  · rfl
  · exact heldAs_tvalValue c xl v

/-- Settles O14: each register as the definition of the entry gives it. -/
theorem trapEntryMachineAndSupervisor : Obligations.TrapEntryMachineAndSupervisor := by
  unfold Obligations.TrapEntryMachineAndSupervisor
  refine ⟨fun s info => ?_, fun s info => ?_⟩
  · refine ⟨rfl, rfl, rfl, fun hasH => ?_, fun noH => ?_, savedPc_epcValue _ _ _, rfl, savedMtval_tvalValue _ _ _, rfl, rfl,
      trapVector_eq _ _ _ _, rfl⟩
    · simp [State.enterM, hasH]
    · simp [State.enterM, noH]
  · refine ⟨rfl, rfl, rfl, fun hasH => ?_, fun noH => ?_, savedPc_epcValue _ _ _, rfl, heldAs_tvalValue _ _ _, rfl, rfl,
      trapVector_eq _ _ _ _, ?_⟩
    · simp [State.enterS, hasH]
    · simp [State.enterS, noH]
    · unfold State.enterS
      cases s.hasH <;> rfl

/-- The VS-level interrupt codes as the guest sees them, one by one (R345). -/
theorem vsCode_eq (isInt : Bool) (code : Nat) :
    vsCode isInt code = if isInt then (if code = 10 then 9 else if code = 6 then 5 else if code = 2 then 1 else code)
      else code := by
  unfold vsCode
  cases isInt
  · rfl
  · by_cases ten : code = 10
    · simp [ten]
    · by_cases six : code = 6
      · simp [six]
      · by_cases two : code = 2 <;> simp [ten, six, two]

/-- The exceptions that `hedeleg` can delegate (R343, Table 8.2), where `medeleg` can (R145). -/
theorem State.delegated_codes (s : State) (c : ExcCode) (m : s.medeleg.getLsbD c.code = true)
    (h : s.hedeleg.getLsbD c.code = true) : c.code ≤ 8 ∨ c.code = 12 ∨ c.code = 13 ∨ c.code = 15 := by
  simp only [State.medeleg, State.hedeleg, BitVec.getLsbD_and, Bool.and_eq_true] at m h
  obtain ⟨-, m⟩ := m
  obtain ⟨-, h⟩ := h
  have guest : s.hasH = true := by
    cases on : s.hasH
    · simp [State.hedelegMask, on] at h
    · rfl
  simp only [State.medelegMask, State.hedelegMask, guest, if_true] at m h
  split at m
  · cases c <;> simp_all [ExcCode.code, -BitVec.getLsbD_eq_getElem, flag_getLsbD]
  · simp at m

/-- Settles O15: each register as the definition of the entry gives it, and what both delegation registers can hold. -/
theorem trapEntryVirtualSupervisor : Obligations.TrapEntryVirtualSupervisor := by
  unfold Obligations.TrapEntryVirtualSupervisor
  refine ⟨fun s info => ?_, fun s c goesVs => ?_⟩
  · dsimp only
    rw [← vsCode_eq]
    exact ⟨rfl, rfl, rfl, savedPc_epcValue _ _ _, rfl, heldAs_tvalValue _ _ _, rfl, rfl, trapVector_eq _ _ _ _, rfl⟩
  · obtain goesM | ⟨goesS, -⟩ | ⟨-, -, -, m, -, virt, h⟩ := s.exceptionTarget_cases c
    · rw [goesM] at goesVs
      cases goesVs
    · rw [goesS] at goesVs
      cases goesVs
    · exact ⟨virt, s.delegated_codes c m h⟩

/-! ## Before the step acts -/

theorem State.speculations_same (l : List SpecWalk) (s : State) :
    l.foldl State.speculate s
      = { s with tc := (l.foldl State.speculate s).tc, draws := (l.foldl State.speculate s).draws } := by
  induction l generalizing s with
  | nil => rfl
  | cons k l ih =>
    rw [List.foldl_cons, ih, s.speculate_same k]

/-- Sampling the inputs and counting cycles leaves everything but the inputs, `mtime`, `msip`, SSIP, the counters, and the
translation cache alone. -/
theorem State.begin_same (s : State) :
    s.begin = { s with
      lines := s.event.lines, mtime := s.mtime + BitVec.ofNat 64 s.event.ticks, msip := s.event.writeMsip.getD s.msip
      env := s.env.tail, m := { s.m with
        ip := s.m.ip ||| flag s.event.setSsip 1, cycle := s.begin.m.cycle, hpmcounter := s.begin.m.hpmcounter }
      tc := s.begin.tc, draws := s.begin.draws } := by
  unfold State.begin State.sample
  rw [State.speculations_same]
  rfl

section
variable (s : State)

@[simp] theorem State.begin_cfg : s.begin.cfg = s.cfg := by rw [s.begin_same]
@[simp] theorem State.begin_x : s.begin.x = s.x := by rw [s.begin_same]
@[simp] theorem State.begin_pc : s.begin.pc = s.pc := by rw [s.begin_same]
@[simp] theorem State.begin_priv : s.begin.priv = s.priv := by rw [s.begin_same]
@[simp] theorem State.begin_virt : s.begin.virt = s.virt := by rw [s.begin_same]
@[simp] theorem State.begin_mstatus : s.begin.mstatus = s.mstatus := by rw [s.begin_same]
@[simp] theorem State.begin_s : s.begin.s = s.s := by rw [s.begin_same]
@[simp] theorem State.begin_h : s.begin.h = s.h := by rw [s.begin_same]
@[simp] theorem State.begin_vs : s.begin.vs = s.vs := by rw [s.begin_same]
@[simp] theorem State.begin_mem : s.begin.mem = s.mem := by rw [s.begin_same]
@[simp] theorem State.begin_mtimecmp : s.begin.mtimecmp = s.mtimecmp := by rw [s.begin_same]
@[simp] theorem State.begin_mxlen : s.begin.mxlen = s.mxlen := by rw [s.begin_same]; rfl
@[simp] theorem State.begin_hasH : s.begin.hasH = s.hasH := by rw [s.begin_same]; rfl
@[simp] theorem State.begin_savedPc : s.begin.savedPc = s.pcAtTrap := by rw [s.begin_same]; rfl

end

/-! ## The NMI -/

theorem tvalValue_zero (c : Config) (xl : Xlen) : tvalValue c xl 0 = 0 := by
  have held := heldAs_tvalValue c xl 0
  unfold HeldAs at held
  split at held
  · rw [held]
    rfl
  · exact held
  · exact held (by simp [signExtendsFrom])

/-- What the NMI leaves (R905, D57). -/
theorem State.takeNmi_eq (s : State) :
    s.takeNmi = { s.enterM (s.interruptInfo s.cfg.nmiCause.toNat) with
      pc := sxTo s.mxlen s.cfg.nmiVector, stalled := false } := rfl

theorem State.takeNmi_cause (s : State) :
    s.takeNmi.m.cause = zxTo s.mxlen s.cfg.nmiCause ||| flag true (s.mxlen.bits - 1) := by
  change causeWord s.mxlen true s.cfg.nmiCause.toNat = _
  rw [causeWord, BitVec.ofNat_toNat, BitVec.setWidth_eq]

theorem State.takeNmi_tval (s : State) : s.takeNmi.m.tval = 0 := by
  change (if s.cfg.mtvalReadOnlyZero then 0 else tvalValue s.cfg s.mxlen 0) = 0
  rw [tvalValue_zero, ite_self]

theorem State.takeNmi_epc (s : State) : SavedPc s.cfg s.mxlen s.savedPc s.takeNmi.m.epc := savedPc_epcValue _ _ _

theorem State.takeNmi_guest (s : State) (hasH : s.hasH = true) :
    s.takeNmi.mstatus.mpv = s.virt ∧ s.takeNmi.mstatus.gva = false ∧ s.takeNmi.m.tval2 = 0 ∧ s.takeNmi.m.tinst = 0 := by
  rw [s.takeNmi_eq]
  simp only [State.enterM, hasH, State.interruptInfo, if_true, true_and, and_true]
  cases s.mxlen <;> rfl

/-- Settles O22: the step takes the NMI as a trap into M-mode, at its own vector and with every informative value zero. -/
theorem nmiEntersMachineMode : Obligations.NmiEntersMachineMode := by
  unfold Obligations.NmiEntersMachineMode
  intro s wf awake nmi
  have run : step s = .next s.begin.takeNmi := by
    rw [step_eq, if_pos wf, State.act, awake, nmi]
    rfl
  have pc : s.begin.takeNmi.pc = sxTo s.begin.mxlen s.begin.cfg.nmiVector := rfl
  have stack : s.begin.takeNmi.mstatus.mpp = s.begin.priv ∧ s.begin.takeNmi.mstatus.mpie = s.begin.mstatus.mie :=
    ⟨rfl, rfl⟩
  have epc := s.begin.takeNmi_epc
  have cause := s.begin.takeNmi_cause
  have guest := s.begin.takeNmi_guest
  simp only [State.begin_cfg, State.begin_mxlen, State.begin_savedPc, State.begin_priv, State.begin_mstatus,
    State.begin_hasH, State.begin_virt] at pc stack epc cause guest
  exact ⟨_, run, rfl, rfl, pc, epc, cause, State.takeNmi_tval _, stack.1, stack.2, rfl, guest, rfl, s.begin_x, s.begin_mem,
    s.begin_s, s.begin_h, s.begin_vs⟩

/-! ## Reset -/

section
variable {α : Type} (f : Byte × Word → α) (z : α)

/-- The registers that a list of reset values leaves: the first value given for a place stands, the others are `z`. -/
theorem getD_resetValues_of_none {l : List (Nat × Byte × Word)} {i : Nat} (h : l.lookup i = none) :
    (l.foldr (fun e v => v.setIfInBounds e.1 (f e.2)) (Vector.replicate 64 z)).getD i z = z := by
  induction l with
  | nil => by_cases hi : i < 64 <;> simp [Vector.getD, Array.getD_eq_getD_getElem?, hi]
  | cons d l ih =>
    obtain ⟨k, d⟩ := d
    simp only [List.lookup_cons] at h
    split at h
    · cases h
    · next other =>
      rw [List.foldr_cons, getD_setIfInBounds_of_ne _ _ _ (by rintro rfl; simp at other)]
      exact ih h

theorem getD_resetValues_of_some {l : List (Nat × Byte × Word)} {i : Nat} {e : Byte × Word} (h : l.lookup i = some e)
    (hi : i < 64) :
    (l.foldr (fun e v => v.setIfInBounds e.1 (f e.2)) (Vector.replicate 64 z)).getD i z = f e := by
  induction l with
  | nil => cases h
  | cons d l ih =>
    obtain ⟨k, d⟩ := d
    simp only [List.lookup_cons] at h
    split at h
    · next same =>
      cases h
      obtain rfl := beq_iff_eq.mp same
      simp [Vector.getD, Array.getD_eq_getD_getElem?, hi]
    · next other =>
      rw [List.foldr_cons, getD_setIfInBounds_of_ne _ _ _ (by rintro rfl; simp at other)]
      exact ih h

end

/-- The entries that the platform resets otherwise are there (R471). -/
theorem lookup_pmpReset_lt {c : Config} (wf : c.wf = true) {i : Nat} {e : Byte × Word}
    (h : c.pmpReset.lookup i = some e) : i < 64 := by
  have legal := (configRules wf).pmpReset
  have count := (configRules wf).pmpCount
  have member : (i, e) ∈ c.pmpReset := by
    obtain ⟨before, after, split, -⟩ := List.lookup_eq_some_iff.mp h
    rw [split]
    simp
  have entry := List.all_eq_true.mp legal _ member
  simp only [Bool.and_eq_true, decide_eq_true_eq] at entry
  omega

theorem State.afterReset_resetOf (c : Config) : (State.resetOf c).AfterReset := by
  refine ⟨rfl, rfl, rfl, rfl, fun endian => ?_, rfl, rfl, rfl, rfl, rfl, fun i none => ?_, fun wf i e some => ?_, ?_, ?_⟩
  · change pickEndian c.mbe false false false false = false
    cases kind : c.mbe <;> first | rfl | exact absurd kind endian
  · have byte : (State.resetOf c).pmpCfg i = 0 := getD_resetValues_of_none (fun e => e.1) 0 none
    rw [byte]
    exact ⟨rfl, rfl⟩
  · have hi := lookup_pmpReset_lt wf some
    exact ⟨getD_resetValues_of_some (fun e => e.1) 0 some hi, getD_resetValues_of_some (fun e => e.2) 0 some hi⟩
  · change atpMode _ 0 = 0
    cases (State.resetOf c).sxlen <;> rfl
  · change atpMode _ 0 = 0
    cases (State.resetOf c).vsxlen <;> rfl

/-- Settles O23: the state after reset is that of the configuration, with memory and devices kept. -/
theorem resetState : Obligations.ResetState := by
  unfold Obligations.ResetState
  refine ⟨fun c => ⟨State.afterReset_resetOf c, rfl⟩, fun s wf asked => ?_⟩
  have run : step s = .next s.begin.resetHart := by
    rw [step_eq, if_pos wf, State.act, asked]
    rfl
  exact ⟨_, run, State.afterReset_resetOf s.begin.cfg, s.begin_cfg, rfl, s.begin_mem, s.begin_mtimecmp⟩

/-- Settles O11: the reset state has empty memory, is in M-mode, and stands at the reset vector. -/
theorem resetMeetsInvariants : Obligations.ResetMeetsInvariants := by
  unfold Obligations.ResetMeetsInvariants
  have wf : Config.reference.wf = true := by decide
  refine ⟨State.wf_reset, State.reset.modeInv_iff.mpr ⟨wf, State.extLegal_resetOf wf, State.modeOk_resetOf _⟩, wf,
    State.extLegal_resetOf wf, State.pcAligned_resetOf (configRules wf)⟩

end Sys2Proof.Machine
end

section
/-! What a step answers, where M-mode accesses go, and the fetch in M-mode (R500, R503, R550, R894). -/

namespace Sys2Proof.Machine

open Sys2Proof

/-! ## What a step answers -/

/-- Running fetched bytes answers a next state, or refuses an instruction of a Volume I extension that is on. -/
theorem State.runBytes_cases (s : State) (bytes : List Byte) :
    (∃ t, s.runBytes bytes = .next t)
      ∨ ∃ e, s.runBytes bytes = .refused (.volumeOne e) ∧ decodeBytes bytes = .rejected (.volumeOne e)
          ∧ s.volumeOneOn (fetchedWord bytes) e = true := by
  unfold State.runBytes
  dsimp only
  split
  · next i len decoded =>
    left
    split
    · obtain ⟨t, run, -⟩ := exec_completed i s
      exact ⟨t, run⟩
    · exact ⟨_, rfl⟩
  · next e decoded =>
    split
    · next on => exact .inr ⟨e, rfl, decoded, on⟩
    · exact .inl ⟨_, rfl⟩
  · exact .inl ⟨_, rfl⟩
  · exact .inl ⟨_, rfl⟩

theorem State.runNext_cases (s : State) :
    (∃ t, s.runNext = .next t)
      ∨ ∃ bytes t, s.fetch = .ok bytes t ∧ s.runNext = t.runBytes bytes := by
  unfold State.runNext State.fetchAndRun
  split
  · exact .inl ⟨_, rfl⟩
  · cases s.fetch with
    | ok bytes t => exact .inr ⟨bytes, t, rfl, rfl⟩
    | exn e t => exact .inl ⟨_, rfl⟩

/-- A step of a legal configuration answers a next state, or refuses the instruction it has fetched. -/
theorem step_cases {s : State} (wf : s.cfg.wf = true) :
    (∃ t, step s = .next t)
      ∨ ∃ bytes t, s.begin.awake.fetch = .ok bytes t ∧ step s = t.runBytes bytes := by
  rw [step_eq, if_pos wf]
  unfold State.act
  split_ifs
  · exact .inl ⟨_, rfl⟩
  · exact .inl ⟨_, rfl⟩
  · exact .inl ⟨_, rfl⟩
  · exact State.runNext_cases _

/-- Settles O6: every instruction of the table answers a next state, so what is refused is a Volume I word. -/
theorem stepStopsOnlyForVolumeOne : Obligations.StepStopsOnlyForVolumeOne := by
  unfold Obligations.StepStopsOnlyForVolumeOne Safe
  intro s wf
  obtain ⟨t, run⟩ | ⟨bytes, t, fetched, run⟩ := step_cases wf
  · rw [run]
    exact ⟨nofun, nofun⟩
  · rw [run]
    obtain ⟨u, next⟩ | ⟨e, refused, decoded, on⟩ := t.runBytes_cases bytes
    · rw [next]
      exact ⟨nofun, nofun⟩
    · rw [refused]
      refine ⟨nofun, fun r same => ?_⟩
      cases same
      exact ⟨e, bytes, t, rfl, fetched, decoded, on⟩

/-! ## Accesses of effective mode M -/

section
variable {s : State} {a : Acc} {v : Bool}

/-- An access of effective mode M is not translated (R550): it goes to its own address, where PMP and PMA allow it. -/
theorem State.locate_machine (mode : s.effMode a = (.machine, v)) (ea va : Word) (n : Nat) :
    s.locate a ea va n =
      if s.physAllowed a .machine { pa := va.toNat, gPbmt := 0, sPbmt := 0 } n a.n then .ok va.toNat s
      else .exn (s.origOf a ea va).accessFault s := by
  unfold State.locate
  rw [mode]
  rfl

theorem State.accAddr_machine (mode : s.effMode a = (.machine, v)) (va : Word) : s.accAddr a va = zxTo s.mxlen va := by
  unfold State.accAddr
  rw [mode]
  rfl

/-- Where an access of effective mode M that needs no misaligned handling goes (R500, R550). -/
theorem State.resolve_machine (mode : s.effMode a = (.machine, v)) (va : Word)
    (whole : a.kind = .fetch ∨ (zxTo s.mxlen va).toNat % a.n = 0) :
    s.resolve a va =
      if s.physAllowed a .machine { pa := (zxTo s.mxlen va).toNat, gPbmt := 0, sPbmt := 0 } a.n a.n then
        .ok (addrsFrom (zxTo s.mxlen va).toNat a.n) s
      else .exn (s.origOf a (zxTo s.mxlen va) (zxTo s.mxlen va)).accessFault s := by
  unfold State.resolve
  rw [State.accAddr_machine mode]
  dsimp only
  rw [if_pos whole, State.locate_machine mode]
  split <;> rfl

theorem State.effMode_machine (kind : a.kind ≠ .fetch) (plain : a.hlv = false) (machine : s.priv = .machine)
    (mprv : s.mstatus.mprv = false) : ∃ v, s.effMode a = (.machine, v) := by
  unfold State.effMode State.dataMode
  simp [kind, plain, machine, mprv]

end

/-- Settles O34: neither translated nor misaligned, the access goes to its address or is an access fault. -/
theorem machineAccessIsUntranslated : Obligations.MachineAccessIsUntranslated := by
  unfold Obligations.MachineAccessIsUntranslated
  intro s a va kind plain machine mprv pa aligned
  obtain ⟨v, mode⟩ := State.effMode_machine kind plain machine mprv
  have goes := State.resolve_machine mode va (.inr aligned)
  refine ⟨fun allowed => ?_, fun denied => ?_⟩
  · rw [goes, if_pos allowed]
  · refine ⟨_, ?_, rfl, goes.trans (if_neg (Bool.eq_false_iff.mp denied))⟩
    cases h : a.kind <;> simp_all [State.origOf, Orig.accessFault]

/-! ## The fetch in M-mode -/

theorem addrsFrom_eq (p n : Nat) : addrsFrom p n = (List.range n).map fun k => p + k := by
  induction n generalizing p with
  | zero => rfl
  | succ n ih =>
    rw [List.range_succ_eq_map, List.map_cons, List.map_map, addrsFrom, ih]
    congr 2
    funext k
    simp only [Function.comp_apply]
    omega

/-- Settles O4: the step samples its event, fetches and decodes; and the fetch in M-mode is not translated. -/
theorem stepRunsDecodedInstruction : Obligations.StepRunsDecodedInstruction := by
  unfold Obligations.StepRunsDecodedInstruction
  refine ⟨fun s t bytes i len wf reset nmi awake quiet fetched decoded usable => ?_, fun s machine noC allowed => ?_⟩
  · rw [step_eq, if_pos wf, State.act, reset, nmi, awake]
    change s.begin.awake.runNext = _
    rw [State.runNext, quiet, State.fetchAndRun, fetched]
    change t.runBytes bytes = _
    rw [State.runBytes, decoded]
    change (if t.usable i len then exec i t else _) = _
    rw [if_pos usable]
  · have mode : s.effMode { kind := .fetch, n := 4 } = (.machine, s.virt) := by
      rw [← machine]
      rfl
    rw [State.fetch, noC, Bool.not_false, if_pos rfl, State.fetchParcel,
      State.resolve_machine mode s.pc (.inl rfl), if_pos allowed, addrsFrom_eq]
    simp [Res.bind, State.readAt, Function.comp_def]

end Sys2Proof.Machine
end

section
/-! Values at a width: which words are the same at XLEN, how the comparisons and shifts read there, and from it the
computations, jumps and branches (R1001 to R1004). -/

namespace Sys2Proof.Machine

open Sys2Proof

/-! ## Words that agree in their low XLEN bits -/

theorem bits_le_64 (xl : Xlen) : xl.bits ≤ 64 := by cases xl <;> decide

theorem natOf_eq (xl : Xlen) (v : Word) : natOf xl v = v.toNat % 2 ^ xl.bits := by
  cases xl
  · simp only [natOf, zxTo, Xlen.bits, BitVec.toNat_setWidth]
    omega
  · exact (Nat.mod_eq_of_lt v.isLt).symm

theorem natOf_sxTo (xl : Xlen) (v : Word) : natOf xl (sxTo xl v) = natOf xl v := by
  rw [natOf, zxTo_sxTo, natOf]

/-- Words that agree modulo 2^XLEN are the same value of a register (R36). -/
theorem sxTo_eq_of_natOf {xl : Xlen} {u v : Word} (h : natOf xl u = natOf xl v) : sxTo xl u = sxTo xl v := by
  have same : zxTo xl u = zxTo xl v := BitVec.eq_of_toNat_eq h
  cases xl
  · have low : u.setWidth 32 = v.setWidth 32 := by
      have := congrArg (fun w : Word => w.setWidth 32) same
      simpa [zxTo] using this
    rw [sxTo, low, sxTo]
  · exact same

theorem natOf_eq_of_modEq {xl : Xlen} {u v : Word} (h : u.toNat ≡ v.toNat [MOD 2 ^ xl.bits]) : natOf xl u = natOf xl v := by
  rw [natOf_eq, natOf_eq]
  exact h

theorem sxTo_sxTo (xl : Xlen) (v : Word) : sxTo xl (sxTo xl v) = sxTo xl v := sxTo_eq_of_natOf (natOf_sxTo xl v)

theorem sxTo_zxTo (xl : Xlen) (v : Word) : sxTo xl (zxTo xl v) = sxTo xl v := by
  refine sxTo_eq_of_natOf ?_
  rw [natOf_eq xl (zxTo xl v), show (zxTo xl v).toNat = natOf xl v from rfl, natOf_eq, Nat.mod_mod]

/-- A word reads modulo 2^XLEN as the register that holds it (R36). -/
theorem modEq_sxTo (xl : Xlen) (v : Word) : (sxTo xl v).toNat ≡ v.toNat [MOD 2 ^ xl.bits] := by
  have := natOf_sxTo xl v
  rwa [natOf_eq, natOf_eq] at this

theorem modEq_of_mod_64 {xl : Xlen} {m n : Nat} (h : m ≡ n [MOD 2 ^ 64]) : m ≡ n [MOD 2 ^ xl.bits] :=
  h.of_dvd (Nat.pow_dvd_pow 2 (bits_le_64 xl))

theorem modEq_add (xl : Xlen) (u v : Word) : (u + v).toNat ≡ u.toNat + v.toNat [MOD 2 ^ xl.bits] :=
  modEq_of_mod_64 (by rw [BitVec.toNat_add]; exact Nat.mod_modEq _ _)

/-! ## Operations on register values -/

theorem sxTo_add_sxTo (xl : Xlen) (u v : Word) : sxTo xl (sxTo xl u + sxTo xl v) = sxTo xl (u + v) := by
  refine sxTo_eq_of_natOf (natOf_eq_of_modEq ?_)
  exact (modEq_add xl _ _).trans (((modEq_sxTo xl u).add (modEq_sxTo xl v)).trans (modEq_add xl u v).symm)

theorem sxTo_add_left (xl : Xlen) (u v : Word) : sxTo xl (sxTo xl u + v) = sxTo xl (u + v) := by
  refine sxTo_eq_of_natOf (natOf_eq_of_modEq ?_)
  exact (modEq_add xl _ _).trans (((modEq_sxTo xl u).add_right _).trans (modEq_add xl u v).symm)

theorem sxTo_sub_sxTo (xl : Xlen) (u v : Word) : sxTo xl (sxTo xl u - sxTo xl v) = sxTo xl (u - v) := by
  refine sxTo_eq_of_natOf (natOf_eq_of_modEq ?_)
  have whole := modEq_add xl (u - v) v
  have narrow := modEq_add xl (sxTo xl u - sxTo xl v) (sxTo xl v)
  rw [BitVec.sub_add_cancel] at whole narrow
  refine Nat.ModEq.add_right_cancel (modEq_sxTo xl v) ?_
  exact (narrow.symm.trans (modEq_sxTo xl u)).trans whole

section
variable (xl : Xlen) (u v : Word)

theorem sxTo_and : sxTo xl (u &&& v) = sxTo xl u &&& sxTo xl v := by
  cases xl <;> simp [sxTo]

theorem sxTo_or : sxTo xl (u ||| v) = sxTo xl u ||| sxTo xl v := by
  cases xl <;> simp [sxTo]

theorem sxTo_xor : sxTo xl (u ^^^ v) = sxTo xl u ^^^ sxTo xl v := by
  cases xl <;> simp [sxTo]

end

/-- A sign-extended immediate fits in every width (R1001). -/
theorem sxTo_immediate (xl : Xlen) (imm : BitVec 12) : sxTo xl (imm.signExtend 64) = imm.signExtend 64 := by
  cases xl
  · have low : (imm.signExtend 64).setWidth 32 = imm.signExtend 32 := by
      refine BitVec.eq_of_getLsbD_eq fun i hi => ?_
      simp only [BitVec.getLsbD_setWidth, BitVec.getLsbD_signExtend, hi, show i < 64 by omega, decide_true,
        Bool.true_and]
    refine BitVec.eq_of_toInt_eq ?_
    rw [sxTo, low, BitVec.toInt_signExtend_of_le (by decide), BitVec.toInt_signExtend_of_le (by decide),
      BitVec.toInt_signExtend_of_le (by decide)]
  · rfl

/-! ## Comparisons -/

theorem ltSigned_sxTo (xl : Xlen) (u v : Word) : ltSigned (sxTo xl u) (sxTo xl v) = decide (intOf xl u < intOf xl v) := by
  rfl

/-- Sign-extension from XLEN keeps the unsigned order (R1002, R1004). -/
theorem ltUnsigned_sxTo (xl : Xlen) (u v : Word) :
    ltUnsigned (sxTo xl u) (sxTo xl v) = decide (natOf xl u < natOf xl v) := by
  cases xl
  · have value (w : Word) : (sxTo .x32 w).toNat
        = w.toNat % 2 ^ 32 + if 2 ^ 31 ≤ w.toNat % 2 ^ 32 then 2 ^ 64 - 2 ^ 32 else 0 := by
      simp only [sxTo, BitVec.toNat_signExtend, BitVec.msb_eq_decide, BitVec.toNat_setWidth, decide_eq_true_eq]
      have bound := Nat.mod_lt w.toNat (show 0 < 2 ^ 32 by decide)
      rw [Nat.mod_eq_of_lt (by omega : w.toNat % 2 ^ 32 < 2 ^ 64)]
    simp only [ltUnsigned, BitVec.ult, decide_eq_decide, value, natOf_eq, Xlen.bits]
    have boundU := Nat.mod_lt u.toNat (show 0 < 2 ^ 32 by decide)
    have boundV := Nat.mod_lt v.toNat (show 0 < 2 ^ 32 by decide)
    split <;> split <;> omega
  · rfl

theorem beq_sxTo (xl : Xlen) (u v : Word) : (sxTo xl u == sxTo xl v) = decide (natOf xl u = natOf xl v) := by
  rw [Bool.eq_iff_iff, beq_iff_eq, decide_eq_true_eq]
  refine ⟨fun same => ?_, sxTo_eq_of_natOf⟩
  rw [← natOf_sxTo, same, natOf_sxTo]

theorem intOf_immediate (xl : Xlen) (imm : BitVec 12) : intOf xl (imm.signExtend 64) = imm.toInt := by
  rw [intOf, sxTo_immediate, BitVec.toInt_signExtend_of_le (by decide)]

theorem boolWord_eq {p : Prop} [Decidable p] : boolWord (decide p) = if p then 1 else 0 := by
  simp [boolWord]

/-! ## Shifts -/

theorem sxTo_shiftLeft (xl : Xlen) (v : Word) (n : Nat) :
    sxTo xl (shiftLeft xl (sxTo xl v) n) = sxTo xl (BitVec.ofNat 64 (natOf xl v * 2 ^ n)) := by
  refine sxTo_eq_of_natOf (natOf_eq_of_modEq ?_)
  have shifted : (sxTo xl v <<< n).toNat ≡ (sxTo xl v).toNat * 2 ^ n [MOD 2 ^ xl.bits] :=
    modEq_of_mod_64 (by rw [BitVec.toNat_shiftLeft, Nat.shiftLeft_eq]; exact Nat.mod_modEq _ _)
  have value : (BitVec.ofNat 64 (natOf xl v * 2 ^ n)).toNat ≡ natOf xl v * 2 ^ n [MOD 2 ^ xl.bits] :=
    modEq_of_mod_64 (by rw [BitVec.toNat_ofNat]; exact Nat.mod_modEq _ _)
  have low : natOf xl v ≡ v.toNat [MOD 2 ^ xl.bits] := by
    rw [natOf_eq]
    exact Nat.mod_modEq _ _
  exact shifted.trans ((((modEq_sxTo xl v).trans low.symm).mul_right _).trans value.symm)

theorem shiftRightL_eq (xl : Xlen) (v : Word) (n : Nat) :
    shiftRightL xl (sxTo xl v) n = BitVec.ofNat 64 (natOf xl v / 2 ^ n) := by
  refine BitVec.eq_of_toNat_eq ?_
  rw [shiftRightL, zxTo_sxTo, BitVec.toNat_ushiftRight, Nat.shiftRight_eq_div_pow, BitVec.toNat_ofNat, ← natOf]
  exact (Nat.mod_eq_of_lt (lt_of_le_of_lt (Nat.div_le_self _ _) (zxTo xl v).isLt)).symm

theorem shiftRightA_eq (xl : Xlen) (v : Word) (n : Nat) :
    shiftRightA xl (sxTo xl v) n = BitVec.ofInt 64 (intOf xl v / 2 ^ n) := by
  have value : ((sxTo xl v).sshiftRight n).toInt = intOf xl v / 2 ^ n := by
    rw [BitVec.toInt_sshiftRight, Int.shiftRight_eq_div_pow, intOf]
    norm_cast
  rw [shiftRightA, sxTo_sxTo, ← value, BitVec.ofInt_toInt]

theorem upperOf_eq (imm : BitVec 20) : upperOf imm = BitVec.ofInt 64 (imm.toInt * 4096) := by
  have value : (upperOf imm).toInt = imm.toInt * 4096 := by
    rw [upperOf, BitVec.toInt_signExtend_of_le (by decide), BitVec.toInt_append]
    simp
    omega
  rw [← value, BitVec.ofInt_toInt]

end Sys2Proof.Machine
end

section
/-! The computations, the jumps and the branches (R1002, R1004, R872). -/

namespace Sys2Proof.Machine

open Sys2Proof

/-! ## Instructions that write `rd` and go on -/

theorem State.done_retireTo_writeX (s : State) (rd : RegIdx) (w target : Word) :
    s.Done ((s.writeX rd w).retireTo target) target := by
  unfold State.Done
  rw [State.retireTo_eq, State.writeX_same]
  rfl

theorem State.wrote_retireTo_writeX (s : State) (rd : RegIdx) {w v : Word} (target : Word)
    (value : rd ≠ 0 → sxTo s.xlen w = sxTo s.xlen v) : s.Wrote ((s.writeX rd w).retireTo target) rd v := by
  intro r
  rw [State.readX_retireTo, State.readX_writeX]
  by_cases zero : r = 0
  · subst zero
    rw [if_neg fun h => h.2 rfl, if_pos rfl, State.readX_zero]
  · by_cases same : r = rd
    · subst same
      rw [if_pos ⟨rfl, zero⟩, if_neg zero, if_pos rfl, value zero]
    · rw [if_neg fun h => same h.1, if_neg zero, if_neg same]

theorem State.Done.sameMemory {s t : State} {target : Word} (h : s.Done t target) : s.SameMemory t := by
  intro a
  unfold State.Done at h
  rw [h]
  rfl

/-- An instruction that writes `rd` and goes on at `target`. -/
theorem Completes.of_retireTo {i : Instr} {s : State} {rd : RegIdx} {w v target next : Word}
    (run : exec i s = .next ((s.writeX rd w).retireTo target)) (value : rd ≠ 0 → sxTo s.xlen w = sxTo s.xlen v)
    (goes : sxTo s.xlen target = sxTo s.xlen next) : Completes i s rd v next := by
  have done := s.done_retireTo_writeX rd w target
  refine ⟨_, run, s.wrote_retireTo_writeX rd target value, ?_, done.sameMemory⟩
  unfold State.Done at done ⊢
  rwa [← goes]

theorem Completes.of_compute {i : Instr} {s : State} {rd : RegIdx} {w v : Word} (run : exec i s = s.compute rd w)
    (value : sxTo s.xlen w = sxTo s.xlen v) : Completes i s rd v (s.pc + 4) := by
  refine .of_retireTo (run.trans ?_) (fun _ => value) rfl
  have pc : (s.writeX rd w).pc = s.pc := by rw [State.writeX_same]
  rw [State.compute, State.retire, pc]

/-! ## Register-register and register-immediate computation -/

/-- Settles O24: each result is that of the full registers, cut to XLEN. -/
theorem registerComputation : Obligations.RegisterComputation := by
  unfold Obligations.RegisterComputation
  intro s rd rs1 rs2 a b xl next sh
  have amount : s.shiftAmount rs2 = sh := by
    have divides : xl.bits ∣ 2 ^ xl.bits := by cases xl <;> decide
    exact (modEq_sxTo xl b).of_dvd divides
  refine ⟨.of_compute rfl (sxTo_add_sxTo _ _ _), .of_compute rfl (sxTo_sub_sxTo _ _ _), .of_compute rfl ?_,
    .of_compute rfl ?_, .of_compute rfl ?_, .of_compute rfl ?_, .of_compute rfl ?_, .of_compute rfl ?_,
    .of_compute rfl ?_, .of_compute rfl ?_⟩
  · rw [State.src, State.src, ← sxTo_xor, sxTo_sxTo]
  · rw [State.src, State.src, ← sxTo_or, sxTo_sxTo]
  · rw [State.src, State.src, ← sxTo_and, sxTo_sxTo]
  · rw [State.src, State.src, ltSigned_sxTo, boolWord_eq]
  · rw [State.src, State.src, ltUnsigned_sxTo, boolWord_eq]
  · rw [amount]
    exact sxTo_shiftLeft _ _ _
  · rw [amount, State.src, shiftRightL_eq]
  · rw [amount, State.src, shiftRightA_eq]

/-- Settles O25: as for the registers, with an immediate that every width holds. -/
theorem immediateComputation : Obligations.ImmediateComputation := by
  unfold Obligations.ImmediateComputation
  refine ⟨fun s rd rs1 imm => ?_, fun s rd imm => ?_⟩
  · intro a k xl next
    have held : sxTo xl k = k := sxTo_immediate xl imm
    refine ⟨.of_compute rfl (sxTo_add_left _ _ _), .of_compute rfl ?_, .of_compute rfl ?_, .of_compute rfl ?_,
      .of_compute rfl ?_, .of_compute rfl ?_⟩
    · rw [sxTo_xor, sxTo_xor, State.src, sxTo_sxTo]
      rfl
    · rw [sxTo_or, sxTo_or, State.src, sxTo_sxTo]
      rfl
    · rw [sxTo_and, sxTo_and, State.src, sxTo_sxTo]
      rfl
    · change sxTo xl (boolWord (ltSigned (sxTo xl a) k)) = _
      rw [← held, ltSigned_sxTo, intOf_immediate, boolWord_eq]
    · change sxTo xl (boolWord (ltUnsigned (sxTo xl a) k)) = _
      rw [← held, ltUnsigned_sxTo, held, boolWord_eq]
  · intro upper
    have value : upperOf imm = upper := upperOf_eq imm
    exact ⟨.of_compute rfl (by rw [value]), .of_compute (w := s.pc + upperOf imm) rfl (by rw [value])⟩

/-! ## Where a shift amount, or a 32-bit operation, does not exist -/

/-- Settles O26: the shifts of a value cut to XLEN, where the amount is less than XLEN. -/
theorem shiftImmediate : Obligations.ShiftImmediate := by
  unfold Obligations.ShiftImmediate
  intro s rd rs1 shamt a xl next n
  have permit (w : BitVec 32) (v : Word) :
      s.shiftImm w rd shamt v = s.guarded w (if decide (n < xl.bits) then .ok else .illegal) fun s => s.compute rd v := rfl
  refine ⟨fun short => ?_, fun long i member => ?_⟩
  · have run (w : BitVec 32) (v : Word) : s.shiftImm w rd shamt v = s.compute rd v := by
      rw [permit, decide_eq_true short, if_pos rfl, State.guarded_ok]
    exact ⟨.of_compute (run _ _) (sxTo_shiftLeft _ _ _), .of_compute (run _ _) (by rw [State.src, shiftRightL_eq]),
      .of_compute (run _ _) (by rw [State.src, shiftRightA_eq])⟩
  · have run (w : BitVec 32) (v : Word) : s.shiftImm w rd shamt v = .next (s.takeIllegal w) := by
      rw [permit, decide_eq_false (Nat.not_lt.mpr long)]
      rfl
    simp only [List.mem_cons, List.not_mem_nil, or_false] at member
    obtain rfl | rfl | rfl := member <;> exact run _ _

/-- Settles O27: at XLEN = 64 a register is read whole. -/
theorem wordComputation : Obligations.WordComputation := by
  unfold Obligations.WordComputation
  intro s rd rs1 rs2 imm wide a b next narrow
  have whole (r : RegIdx) : s.src r = s.readX r := by rw [State.src, wide]; rfl
  have run (w : BitVec 32) (k : State → Out) : s.guarded w s.rv64Permit k = k s := by
    rw [State.rv64Permit, wide]
    rfl
  have addiw := run (encode (.addiw rd rs1 imm)) fun s => s.compute rd (sextBytes 4 (s.src rs1 + immOf imm))
  have addw := run (encode (.addw rd rs1 rs2)) fun s => s.compute rd (sextBytes 4 (s.src rs1 + s.src rs2))
  have subw := run (encode (.subw rd rs1 rs2)) fun s => s.compute rd (sextBytes 4 (s.src rs1 - s.src rs2))
  simp only [whole] at addiw addw subw
  exact ⟨.of_compute addiw rfl, .of_compute addw rfl, .of_compute subw rfl⟩

/-- Settles O28: the permission of each is that of an RV64 instruction. -/
theorem wideInstructionsIllegalOnRv32 : Obligations.WideInstructionsIllegalOnRv32 := by
  unfold Obligations.WideInstructionsIllegalOnRv32
  intro s rd rs1 rs2 imm narrow i member
  have illegal (w : BitVec 32) (k : State → Out) : s.guarded w s.rv64Permit k = .next (s.takeIllegal w) := by
    rw [State.rv64Permit, narrow]
    rfl
  simp only [List.mem_cons, List.not_mem_nil, or_false] at member
  obtain rfl | rfl | rfl | rfl | rfl | rfl := member
  · exact illegal _ fun s => s.compute rd (sextBytes 4 (s.src rs1 + immOf imm))
  · exact illegal _ fun s => s.compute rd (sextBytes 4 (s.src rs1 + s.src rs2))
  · exact illegal _ fun s => s.compute rd (sextBytes 4 (s.src rs1 - s.src rs2))
  · exact illegal _ fun s => s.loadTo (encode (.ld rd rs1 imm)) { kind := .load, n := 8 } rd (s.effAddr rs1 imm) (sextBytes 8)
  · exact illegal _ fun s => s.loadTo (encode (.lwu rd rs1 imm)) { kind := .load, n := 4 } rd (s.effAddr rs1 imm) (zextBytes 4)
  · exact illegal _ fun s =>
      s.storeFrom (encode (.sd rs1 rs2 imm)) { kind := .store, n := 8 } (s.effAddr rs1 imm) (s.src rs2)

/-! ## Jumps and branches -/

theorem State.aligned_zxTo (s : State) (xl : Xlen) (v : Word) : s.aligned (zxTo xl v) = s.aligned v := by
  have width := thirtyTwo_le_bits xl
  rw [Bool.eq_iff_iff, State.aligned_iff, State.aligned_iff, zxTo_getLsbD_of_lt v (by omega),
    zxTo_getLsbD_of_lt v (by omega)]

theorem State.aligned_eq_true_iff (s : State) (v : Word) : s.aligned v = true ↔ v.toNat % s.ialign = 0 := by
  rw [State.aligned, beq_iff_eq]

/-- A jump to the target `v` cut to XLEN reaches it where it is aligned. -/
theorem Completes.of_jump {i : Instr} {s : State} {w : BitVec 32} {rd : RegIdx} {v l target : Word}
    (run : exec i s = s.jump w rd target) (cut : target = zxTo s.xlen v) (aligned : v.toNat % s.ialign = 0)
    (link : rd ≠ 0 → l = s.pc + 4) : Completes i s rd l v := by
  have reached : s.aligned target = true := by rwa [cut, State.aligned_zxTo, State.aligned_eq_true_iff]
  obtain ⟨-, jumps⟩ | ⟨misaligned, -⟩ := s.jump_cases w rd target
  · refine .of_retireTo (run.trans jumps) (fun written => by rw [link written]) ?_
    rw [cut, sxTo_zxTo]
  · exact absurd (reached.symm.trans misaligned) (by decide)

/-- A jump to a misaligned target raises the exception on the jump (R872). -/
theorem State.jump_misaligned {s : State} (w : BitVec 32) (rd : RegIdx) {v target : Word} (cut : target = zxTo s.xlen v)
    (misaligned : v.toNat % s.ialign ≠ 0) :
    ∃ e : Excn, e.code = .instrMisaligned ∧ e.tval = zxTo s.xlen v
      ∧ s.jump w rd target = .next (s.takeException w e) := by
  obtain ⟨aligned, -⟩ | ⟨-, raises⟩ := s.jump_cases w rd target
  · rw [cut, State.aligned_zxTo, State.aligned_eq_true_iff] at aligned
    exact absurd aligned misaligned
  · exact ⟨_, rfl, cut, raises⟩

theorem State.sameOutsideTrap_takeException (s : State) (w : BitVec 32) (e : Excn) :
    s.SameOutsideTrap (s.takeException w e) := by
  unfold State.SameOutsideTrap State.takeException
  cases s.exceptionTarget e.code <;> rfl

theorem zxTo_clearBit (xl : Xlen) (v : Word) : zxTo xl (v &&& ~~~1#64) = zxTo xl v &&& ~~~1#64 := by
  refine BitVec.eq_of_getLsbD_eq fun i hi => ?_
  simp only [zxTo_getLsbD, BitVec.getLsbD_and, Bool.and_assoc]

theorem zxTo_congr {xl : Xlen} {u v : Word} (h : sxTo xl u = sxTo xl v) : zxTo xl u = zxTo xl v := by
  rw [← zxTo_sxTo, h, zxTo_sxTo]

/-- Settles O29: the target is the sum cut to XLEN, which is as aligned as the sum. -/
theorem jumpAndLink : Obligations.JumpAndLink := by
  unfold Obligations.JumpAndLink
  intro s rd rs1 off imm jump member
  have run : ∃ target, exec jump.1 s = s.jump (encode jump.1) rd target ∧ target = zxTo s.xlen jump.2 := by
    simp only [List.mem_cons, List.not_mem_nil, or_false] at member
    obtain rfl | rfl := member
    · exact ⟨_, rfl, rfl⟩
    · refine ⟨_, rfl, ?_⟩
      rw [zxTo_clearBit, State.target, State.src, zxTo_congr (sxTo_add_left _ _ _)]
      rfl
  obtain ⟨target, run, cut⟩ := run
  refine ⟨fun aligned => .of_jump run cut aligned fun _ => rfl, fun misaligned => ?_⟩
  obtain ⟨e, code, tval, raises⟩ := State.jump_misaligned (encode jump.1) rd cut misaligned
  exact ⟨_, run.trans raises, State.takeException_x _ _ _, s.sameOutsideTrap_takeException _ _, e, code, tval, rfl⟩

/-- What a branch with this condition does (R872, R1002). -/
theorem branch_spec {i : Instr} {s : State} {taken condition : Bool} {off : BitVec 13}
    (run : exec i s = s.branch (encode i) taken off) (cond : taken = condition) :
    (condition = false → Completes i s 0 0 (s.pc + 4))
      ∧ (condition = true → (s.pc + off.signExtend 64).toNat % s.ialign = 0 →
          Completes i s 0 0 (s.pc + off.signExtend 64))
      ∧ (condition = true → (s.pc + off.signExtend 64).toNat % s.ialign ≠ 0 →
          ∃ e : Excn, e.code = .instrMisaligned ∧ e.tval = zxTo s.xlen (s.pc + off.signExtend 64)
            ∧ exec i s = .next (s.takeException (encode i) e)) := by
  subst cond
  refine ⟨fun falls => ?_, fun jumps aligned => ?_, fun jumps misaligned => ?_⟩
  · subst falls
    exact .of_retireTo (w := 0) run (fun _ => rfl) rfl
  · subst jumps
    exact .of_jump run rfl aligned fun written => absurd rfl written
  · subst jumps
    obtain ⟨e, code, tval, raises⟩ := State.jump_misaligned (s := s) (encode i) 0 rfl misaligned
    exact ⟨e, code, tval, run.trans raises⟩

/-- Settles O30: each condition is one of values at XLEN. -/
theorem branches : Obligations.Branches := by
  unfold Obligations.Branches
  intro s rs1 rs2 off a b xl target br member
  simp only [List.mem_cons, List.not_mem_nil, or_false] at member
  have less : ltSigned (s.src rs1) (s.src rs2) = decide (intOf xl a < intOf xl b) := ltSigned_sxTo _ _ _
  have below : ltUnsigned (s.src rs1) (s.src rs2) = decide (natOf xl a < natOf xl b) := ltUnsigned_sxTo _ _ _
  have notLess : (!ltSigned (s.src rs1) (s.src rs2)) = decide (intOf xl b ≤ intOf xl a) := by
    rw [less, Bool.eq_iff_iff]
    simp
  have notBelow : (!ltUnsigned (s.src rs1) (s.src rs2)) = decide (natOf xl b ≤ natOf xl a) := by
    rw [below, Bool.eq_iff_iff]
    simp
  have same : (s.src rs1 == s.src rs2) = decide (natOf xl a = natOf xl b) := beq_sxTo _ _ _
  obtain rfl | rfl | rfl | rfl | rfl | rfl := member
  · exact branch_spec rfl same
  · exact branch_spec rfl (by rw [bne, same, decide_not])
  · exact branch_spec rfl less
  · exact branch_spec rfl notLess
  · exact branch_spec rfl below
  · exact branch_spec rfl notBelow

end Sys2Proof.Machine
end

section
/-! The VS-stage fences, the fences that only order, WFI, and the CSR instructions on the scratch registers and `satp`. -/

namespace Sys2Proof.Machine

open Sys2Proof

/-! ## Fences -/

/-- Settles O46: HINVAL.VVMA acts at once, as HFENCE.VVMA (D50), and both are the VS-stage fence. -/
theorem hfenceVvmaFences : Obligations.HfenceVvmaFences := by
  unfold Obligations.HfenceVvmaFences
  intro s rs1 rs2 hasH outside mode addr asidLen space i member svinval
  have permitted : s.hfenceVPermit = .ok := by simp [State.hfenceVPermit, hasH, outside, mode]
  have run : exec i s = .next (s.fenceGuest rs1 rs2).retire := by
    simp only [List.mem_cons, List.not_mem_nil, or_false] at member
    obtain rfl | rfl := member
    · change execHfenceVvma rs1 rs2 s = _
      rw [execHfenceVvma, permitted, State.guarded_ok]
    · change execHinvalVvma rs1 rs2 s = _
      rw [execHinvalVvma, State.ifSvinval_of_present (svinval rfl), permitted, State.guarded_ok]
  refine ⟨_, run, ?_⟩
  have fenced := s.fenceGuest_fencedTo rs1 rs2
  rw [State.fenceSpace_eq] at fenced
  exact fenced

/-- An instruction that only retires. -/
theorem Completes.of_retire {i : Instr} {s : State} (run : exec i s = .next s.retire) : Completes i s 0 0 (s.pc + 4) :=
  .of_retireTo (w := 0) run (fun _ => rfl) rfl

/-- Settles O48: each of these instructions only retires. -/
theorem orderingFences : Obligations.OrderingFences := by
  unfold Obligations.OrderingFences
  intro s fm pred succ imm rs1 rd
  refine ⟨fun svinval mode => ?_, .of_retire rfl, .of_retire rfl⟩
  have permitted : s.ifSvinval s.fenceInvalPermit = .ok := by
    rw [State.ifSvinval_of_present svinval, State.fenceInvalPermit, if_neg mode]
  refine ⟨.of_retire ?_, .of_retire ?_⟩
  · change execSfenceWInval s = _
    rw [execSfenceWInval, permitted, State.guarded_ok]
  · change execSfenceInvalIr s = _
    rw [execSfenceInvalIr, permitted, State.guarded_ok]

/-! ## WFI -/

theorem exec_wfi_of_run {s : State} (rule : s.wfiRule = .run) : exec .wfi s = .next s.waitForInterrupt := by
  change execWfi s = _
  rw [execWfi, rule]

/-- A WFI that may not wait does not complete where the limit is zero (D49). -/
theorem exec_wfi_of_limited {s : State} {p : Permit} (rule : s.wfiRule = .limited p) (limit : s.cfg.twLimit = 0) :
    exec .wfi s = s.guarded (encode .wfi) p fun s => .next s.retire := by
  change execWfi s = _
  rw [execWfi, rule]
  exact if_pos limit

theorem exec_wfi_of_trap {s : State} {p : Permit} (rule : s.wfiRule = .trap p) :
    exec .wfi s = s.guarded (encode .wfi) p fun s => .next s.waitForInterrupt := by
  change execWfi s = _
  rw [execWfi, rule]

theorem encode_wfi : encode .wfi = 0x10500073#32 := rfl

/-- Settles O44: the table of R757 row by row. -/
theorem wfiCompletes : Obligations.WfiCompletes := by
  unfold Obligations.WfiCompletes
  refine ⟨fun s mode => ?_, fun s limit => ⟨fun refused => ?_, fun guest tw refused => ?_⟩⟩
  · have rule : s.wfiRule = .run := by
      unfold State.wfiRule
      obtain m | ⟨p, v, tw⟩ | ⟨p, v, noS, tw⟩ | ⟨p, v, tw, vtw⟩ := mode
      · rw [m]
      · simp [p, v, tw]
      · simp [p, v, noS, tw]
      · simp [p, v, tw, vtw]
    refine ⟨_, exec_wfi_of_run rule, fun stalled => ?_, ?_⟩
    · have quiet : s.wakeRequired = false := by
        have := (Bool.and_eq_true _ _).mp stalled
        simpa using this.1
      simpa [State.wakeRequired] using quiet
    · rw [State.waitForInterrupt, State.retire, State.retireTo_eq]
  · have rule : s.wfiRule = .limited .illegal := by
      unfold State.wfiRule
      obtain ⟨below, tw⟩ | ⟨user, outside, hasS⟩ := refused
      · cases p : s.priv <;> cases v : s.virt <;> simp_all
      · simp [user, outside, hasS]
    rw [exec_wfi_of_limited rule limit, State.guarded_illegal, encode_wfi]
  · obtain user | ⟨super, vtw⟩ := refused
    · have rule : s.wfiRule = .trap .virt := by simp [State.wfiRule, user, guest, tw]
      rw [exec_wfi_of_trap rule, State.guarded_virt, encode_wfi]
    · have rule : s.wfiRule = .limited .virt := by simp [State.wfiRule, super, guest, tw, vtw]
      rw [exec_wfi_of_limited rule limit, State.guarded_virt, encode_wfi]

/-! ## The scratch registers -/

theorem zxTo_zxTo (xl : Xlen) (v : Word) : zxTo xl (zxTo xl v) = zxTo xl v := by
  refine BitVec.eq_of_getLsbD_eq fun i hi => ?_
  simp only [zxTo_getLsbD, ← Bool.and_assoc, Bool.and_self]

theorem zxTo_zxTo_of_le {x y : Xlen} (h : x.bits ≤ y.bits) (v : Word) : zxTo x (zxTo y v) = zxTo x v := by
  refine BitVec.eq_of_getLsbD_eq fun i hi => ?_
  simp only [zxTo_getLsbD]
  by_cases low : i < x.bits
  · simp [low, lt_of_lt_of_le low h]
  · simp [low]

theorem mem_csrForms_csrrw (s : State) (rd rs1 : RegIdx) (a : BitVec 12) :
    (Instr.csrrw rd a rs1, true, fun _ => zxTo s.xlen (s.readX rs1)) ∈ csrForms s rd a rs1 := List.mem_cons_self

/-- In VS-mode a supervisor register other than `satp` and the counters is reached (R389, R724). -/
theorem State.NamedInGuest.csrCheck_supervisor {s : State} {a : BitVec 12} {w : Bool} {r : CsrReg}
    (h : s.NamedInGuest a w r) (level : csrLevel a = 1) (super : s.priv = .supervisor) (counter : r.counterBit = none)
    (other : r ≠ .satp) : s.csrCheck a w = .ok := by
  unfold State.csrCheck
  simp [h.virt, h.names, h.shown_eq_false, level, super, h.present, h.writable, counter, other]

/-- The value a scratch register takes from a register of the same width. -/
theorem zxTo_csrSource {xl width : Xlen} (same : xl = width) (v : Word) : zxTo width (zxTo xl (zxTo xl v)) = zxTo width v := by
  rw [same, zxTo_zxTo, zxTo_zxTo]

/-- Settles O53: the register read is the one written, and each is as wide as the mode. -/
theorem scratchRegistersSwap : Obligations.ScratchRegistersSwap := by
  unfold Obligations.ScratchRegistersSwap
  intro s rd rs1
  have form (a : BitVec 12) := mem_csrForms_csrrw s rd rs1 a
  refine ⟨fun machine outside => ?_, fun hasS super outside => ?_, fun hasS super guest => ?_⟩
  · have width : s.xlen = s.mxlen := by rw [State.xlen, machine]; rfl
    have access : s.Accessible 0x340 .mscratch := .of_machine machine outside rfl rfl rfl rfl
    have written : (s.advanced rd s.m.scratch s.nextInstret).csrWrite .mscratch
          (zxTo s.xlen (zxTo s.xlen (s.readX rs1)))
        = some { s.advanced rd s.m.scratch s.nextInstret with
            m := { s.m with scratch := zxTo s.mxlen (s.readX rs1), instret := s.nextInstret } } := by
      rw [← zxTo_csrSource width]
      rfl
    exact ⟨_, access.exec_writes (form 0x340) rfl (by decide) (by decide) written,
      s.wrote_advanced rd _ s.nextInstret, rfl⟩
  · have width : s.xlen = s.sxlen := by rw [State.xlen, super, outside]; rfl
    have access : s.Accessible 0x140 .sscratch :=
      .of_ne_user (by rw [super]; decide) outside rfl (by decide) hasS rfl rfl
    have written : (s.advanced rd s.s.scratch s.nextInstret).csrWrite .sscratch
          (zxTo s.xlen (zxTo s.xlen (s.readX rs1)))
        = some { s.advanced rd s.s.scratch s.nextInstret with
            s := { s.s with scratch := zxTo s.sxlen (s.readX rs1) } } := by
      rw [← zxTo_csrSource width]
      rfl
    exact ⟨_, access.exec_writes (form 0x140) rfl (by decide) (by decide) written,
      s.wrote_advanced rd _ s.nextInstret, rfl⟩
  · have width : s.xlen = s.vsxlen := by rw [State.xlen, super, guest]; rfl
    have named : s.NamedInGuest 0x140 true .sscratch := ⟨guest, rfl, hasS, nofun, rfl⟩
    have reached : s.effectiveCsr .sscratch = .vsscratch := by rw [State.effectiveCsr, guest]; rfl
    have written : (s.advanced rd s.vs.scratch (s.instretBefore true .vsscratch)).csrWrite .vsscratch
          (zxTo s.xlen (zxTo s.xlen (s.readX rs1)))
        = some { s.advanced rd s.vs.scratch s.nextInstret with
            vs := { s.vs with scratch := zxTo s.vsxlen (s.readX rs1) } } := by
      rw [← zxTo_csrSource width]
      rfl
    exact ⟨_, exec_csrForm_writes (form 0x140) named.names reached
      (named.csrCheck_supervisor rfl super rfl (by decide)) rfl written, s.wrote_advanced rd _ s.nextInstret, rfl⟩

/-! ## An unsupported MODE of `satp` -/

/-- A write with an unsupported MODE keeps the register (R301). -/
theorem atpWrite_of_unsupported {c : Config} {xl : Xlen} {v : Word} (h : supportsMode c xl (atpMode xl v) = false)
    (old : Word) (draw : Nat) : atpWrite c xl false old v draw = old := by
  simp [atpWrite, h]

theorem State.csrWrite_satp_of_unsupported {u : State} {v : Word}
    (h : supportsMode u.cfg u.sxlen (atpMode u.sxlen (zxTo u.sxlen v)) = false) :
    u.csrWrite .satp v = some { u with draws := u.draws + 1 } := by
  change some { u with
    s := { u.s with atp := atpWrite u.cfg u.sxlen false u.s.atp (zxTo u.sxlen v) u.draws }, draws := u.draws + 1 } = _
  rw [atpWrite_of_unsupported h]

/-- MODE as a number: the top four bits at 64 bits, bit 31 at 32 (R300). -/
theorem atpMode_eq (xl : Xlen) (v : Word) : atpMode xl v = match xl with
    | .x64 => v.toNat / 2 ^ 60
    | .x32 => v.toNat / 2 ^ 31 % 2 := by
  have bound := v.isLt
  cases xl
  · simp [atpMode, bitsAt, Nat.shiftRight_eq_div_pow]
  · simp only [atpMode, bitsAt, Nat.shiftRight_eq_div_pow]
    omega

theorem State.extraCheck_satp {s : State} (mode : s.priv = .machine ∨ (s.priv = .supervisor ∧ s.mstatus.tvm = false)) :
    s.extraCheck .satp = .ok := by
  have counter : CsrReg.counterBit .satp = none := rfl
  unfold State.extraCheck
  obtain m | ⟨p, tvm⟩ := mode
  · simp [counter, m]
  · simp [counter, tvm]

/-- Settles O56: the write reaches `satp`, which keeps its value. -/
theorem satpUnsupportedModeIgnored : Obligations.SatpUnsupportedModeIgnored := by
  unfold Obligations.SatpUnsupportedModeIgnored
  intro s rd rs1 hasS outside mode form member writes v wide narrow
  have user : s.priv ≠ .user := by obtain m | ⟨p, -⟩ := mode <;> simp_all
  have access : s.Accessible 0x180 .satp :=
    .of_ne_user user outside rfl (by decide) hasS rfl (State.extraCheck_satp mode)
  have unsupported : supportsMode s.cfg s.sxlen (atpMode s.sxlen (zxTo s.sxlen (zxTo s.xlen (form.2.2 (s.csrRead .satp)))))
      = false := by
    rw [zxTo_zxTo_of_le (State.sxlen_le_xlen user outside), atpMode_eq]
    cases width : s.sxlen
    · obtain ⟨mode, absent⟩ := narrow width
      have low : (zxTo .x32 (form.2.2 (s.csrRead .satp))).toNat = v % 2 ^ 32 := natOf_eq .x32 _
      have value : v % 2 ^ 32 / 2 ^ 31 % 2 = 1 := by omega
      simp only [supportsMode, low, value, absent]
      rfl
    · obtain ⟨bare, sv39, sv48, sv57⟩ := wide width
      simp only [supportsMode, zxTo, Bool.or_eq_false_iff, Bool.and_eq_false_imp, beq_eq_false_iff_ne, beq_iff_eq]
      exact ⟨⟨⟨bare, sv39⟩, sv48⟩, sv57⟩
  have written := State.csrWrite_satp_of_unsupported (u := s.advanced rd (s.csrRead .satp) s.nextInstret) unsupported
  exact ⟨_, access.exec_writes member writes (by decide) (by decide) written, rfl, rfl,
    s.wrote_advanced rd _ s.nextInstret⟩

end Sys2Proof.Machine
end

section
/-! Non-canonical addresses (R553), and the bytes of memory: what a write of bytes at physical addresses reads back as, and
how a value is made of bytes (R455, R920, R922). -/

namespace Sys2Proof.Machine

open Sys2Proof

/-! ## Non-canonical addresses -/

/-- The wide schemes are those with 39, 48 and 57 bits of address (R300). -/
theorem State.vaBits_of_hsScheme {s : State} {sc : Scheme} (h : s.hsScheme = some sc) (wide : sc.pteSize = 8) :
    sc.vaBits = 39 ∨ sc.vaBits = 48 ∨ sc.vaBits = 57 := by
  unfold State.hsScheme at h
  split at h
  · unfold schemeOf at h
    split at h <;> cases h
    · cases wide
    · exact .inl rfl
    · exact .inr (.inl rfl)
    · exact .inr (.inr rfl)
  · cases h

/-- A canonical address is the sign-extension of its low bits. -/
theorem exists_of_canonical {sc : Scheme} {va : Word} (bits : sc.vaBits = 39 ∨ sc.vaBits = 48 ∨ sc.vaBits = 57)
    (wide : sc.pteSize = 8) (valid : canonical sc va = true) :
    ∃ low : Int, -(2 ^ (sc.vaBits - 1)) ≤ low ∧ low < 2 ^ (sc.vaBits - 1) ∧ va = BitVec.ofInt 64 low := by
  have narrow : ¬ sc.pteSize = 4 := by rw [wide]; decide
  simp only [canonical, if_neg narrow, Bool.or_eq_true, beq_iff_eq, Nat.shiftRight_eq_div_pow] at valid
  have bound := va.isLt
  refine ⟨va.toInt, ?_, ?_, BitVec.ofInt_toInt.symm⟩ <;> rw [BitVec.toInt_eq_toNat_cond] <;>
    obtain h | h | h := bits <;> rw [h] at valid ⊢ <;> split <;> omega

theorem State.translate_of_noncanonical {s : State} {p : Priv} {sc : Scheme} {o : Orig} (below : p ≠ .machine)
    (scheme : s.hsScheme = some sc) (invalid : canonical sc o.va = false) (kind : AccKind) (hlvx : Bool) :
    s.translate kind hlvx p false o = .exn o.pageFault s := by
  have single : s.translate kind hlvx p false o = s.translate1 kind hlvx p o false := by
    cases p <;> first | rfl | exact absurd rfl below
  rw [single, State.translate1, scheme]
  dsimp only
  rw [invalid]
  rfl

/-- Settles O39: an address that fails the check is no sign-extension, and the check is the first thing translation does. -/
theorem nonCanonicalAddressFaults : Obligations.NonCanonicalAddressFaults := by
  unfold Obligations.NonCanonicalAddressFaults
  intro s a va sc p mode below width aligned scheme wide nothing
  have invalid : canonical sc va = false :=
    Bool.eq_false_iff.mpr fun valid => nothing (exists_of_canonical (State.vaBits_of_hsScheme scheme wide) wide valid)
  have address : s.accAddr a va = va := by
    rw [State.accAddr, mode, width]
    rfl
  refine ⟨(s.origOf a va va).pageFault, ?_, rfl, ?_⟩
  · cases h : a.kind <;> simp [State.origOf, Orig.pageFault, h]
  · unfold State.resolve
    dsimp only
    rw [address, if_pos (.inr aligned), State.locate, mode]
    dsimp only
    rw [State.translate_of_noncanonical (o := s.origOf a va va) below scheme invalid]
    rfl

end Sys2Proof.Machine
end

section
/-! The bytes of memory: what a write of bytes at physical addresses reads back as, devices included, and how a value is
made of bytes (R455, R920, R922). -/

namespace Sys2Proof.Machine

open Sys2Proof

/-! ## The bytes of a word -/

theorem byteOf_getLsbD (w : Word) (j : Nat) {k : Nat} (hk : k < 8) : (byteOf w j).getLsbD k = w.getLsbD (8 * j + k) := by
  simp [byteOf, hk]

theorem byteOf_of_le {w : Word} {j : Nat} (hj : 8 ≤ j) : byteOf w j = 0 := by
  refine BitVec.eq_of_getLsbD_eq fun k hk => ?_
  rw [byteOf_getLsbD w j hk, BitVec.getLsbD_of_ge _ _ (by omega)]
  simp

/-- Words with the same bytes are the same. -/
theorem eq_of_byteOf_eq {u v : Word} (h : ∀ k < 8, byteOf u k = byteOf v k) : u = v := by
  refine BitVec.eq_of_getLsbD_eq fun i hi => ?_
  have low : i % 8 < 8 := Nat.mod_lt _ (by decide)
  have := congrArg (fun b : Byte => b.getLsbD (i % 8)) (h (i / 8) (by omega))
  simp only [byteOf_getLsbD _ _ low, Nat.div_add_mod] at this
  exact this

theorem byteMask_getLsbD {i m : Nat} (hm : m < 64) :
    (BitVec.ofNat 64 (0xFF * 2 ^ (8 * i))).getLsbD m = decide (8 * i ≤ m ∧ m < 8 * i + 8) := by
  have ff (k : Nat) : Nat.testBit 0xFF k = decide (k < 8) := by
    rw [show 0xFF = 2 ^ 8 - 1 by rfl, Nat.testBit_two_pow_sub_one]
  rw [BitVec.getLsbD_ofNat, Nat.testBit_mul_two_pow, ff]
  by_cases low : 8 * i ≤ m
  · simp [low, hm]
    omega
  · simp [low]

theorem byteOf_setByte (w : Word) {i j : Nat} (b : Byte) (hj : j < 8) :
    byteOf (setByte w i b) j = if j = i then b else byteOf w j := by
  refine BitVec.eq_of_getLsbD_eq fun k hk => ?_
  rw [byteOf_getLsbD _ _ hk, setByte, merge_getLsbD, byteMask_getLsbD (by omega)]
  by_cases same : j = i
  · subst same
    simp [hk, show 8 * j + k < 64 by omega]
  · rw [if_neg same, byteOf_getLsbD _ _ hk, decide_eq_false (by omega)]
    simp

/-! ## Values in bytes -/

theorem byteOf_ofBytes (l : List Byte) {k : Nat} (hk : k < 8) : byteOf (ofBytes l) k = l.getD k 0 := by
  induction l generalizing k with
  | nil => simp [ofBytes, byteOf]
  | cons b l ih =>
    refine BitVec.eq_of_getLsbD_eq fun i hi => ?_
    rw [byteOf_getLsbD _ _ hi, ofBytes, BitVec.getLsbD_or, BitVec.getLsbD_setWidth, BitVec.getLsbD_shiftLeft]
    cases k with
    | zero => simp [hi, show i < 64 by omega]
    | succ k =>
      have rest := congrArg (fun c : Byte => c.getLsbD i) (ih (k := k) (by omega))
      simp only [byteOf_getLsbD _ _ hi] at rest
      rw [List.getD_cons_succ, ← rest, BitVec.getLsbD_of_ge b _ (by omega), show 8 * (k + 1) + i - 8 = 8 * k + i by omega]
      simp [show 8 * (k + 1) + i < 64 by omega, show ¬ 8 * (k + 1) + i < 8 by omega]

theorem bytesLE_length (v : Word) (n : Nat) : (bytesLE v n).length = n := by
  induction n generalizing v with
  | zero => rfl
  | succ n ih => rw [bytesLE, List.length_cons, ih]

theorem byteOf_ushiftRight (v : Word) (k : Nat) : byteOf (v >>> 8) k = byteOf v (k + 1) := by
  refine BitVec.eq_of_getLsbD_eq fun i hi => ?_
  rw [byteOf_getLsbD _ _ hi, byteOf_getLsbD _ _ hi, BitVec.getLsbD_ushiftRight]
  congr 1
  omega

theorem bytesLE_getD (v : Word) {n k : Nat} (hk : k < n) : (bytesLE v n).getD k 0 = byteOf v k := by
  induction n generalizing v k with
  | zero => omega
  | succ n ih =>
    cases k with
    | zero => simp [bytesLE, byteOf]
    | succ k =>
      rw [bytesLE, List.getD_cons_succ, ih _ (by omega), byteOf_ushiftRight]

theorem inOrder_length (big : Bool) (l : List Byte) : (inOrder big l).length = l.length := by
  cases big <;> simp [inOrder]

theorem inOrder_getD (big : Bool) {l : List Byte} {k : Nat} (hk : k < l.length) :
    (inOrder big l).getD k 0 = l.getD (if big then l.length - 1 - k else k) 0 := by
  cases big
  · rfl
  · simp [inOrder, List.getD_eq_getElem?_getD, List.getElem?_reverse hk]

theorem inOrder_inOrder (big : Bool) (l : List Byte) : inOrder big (inOrder big l) = l := by
  cases big <;> simp [inOrder]

theorem ofBytes_bytesLE (v : Word) : ofBytes (bytesLE v 8) = v := by
  refine eq_of_byteOf_eq fun k hk => ?_
  rw [byteOf_ofBytes _ hk, bytesLE_getD v hk]

/-! ## One byte of physical memory -/

/-- Address `a` has a whole byte: it is in the timer registers, or not in the software-interrupt word. -/
def State.wholeByte (s : State) (a : Nat) : Bool :=
  inRange a s.cfg.mtimeAddr 8 || inRange a s.cfg.mtimecmpAddr 8 || !inRange a s.cfg.msipAddr 4

/-- What address `a` reads after `b` is written there: of the software-interrupt word only bit 0 is held (R922). -/
def State.heldByte (s : State) (a : Nat) (b : Byte) : Byte :=
  if s.wholeByte a then b else if a = s.cfg.msipAddr ∧ b.getLsbD 0 then 1 else 0

theorem State.heldByte_congr {s t : State} (cfg : t.cfg = s.cfg) (a : Nat) (b : Byte) :
    t.heldByte a b = s.heldByte a b := by
  simp [State.heldByte, State.wholeByte, cfg]

theorem inRange_iff (a base n : Nat) : inRange a base n = true ↔ base ≤ a ∧ a < base + n := by simp [inRange]

section
variable {s : State} {a : Nat} (b : Byte)

theorem State.writePhys_mtime (h : inRange a s.cfg.mtimeAddr 8 = true) :
    s.writePhys a b = { s with mtime := setByte s.mtime (a - s.cfg.mtimeAddr) b } := if_pos h

theorem State.writePhys_mtimecmp (apart : inRange a s.cfg.mtimeAddr 8 = false)
    (h : inRange a s.cfg.mtimecmpAddr 8 = true) :
    s.writePhys a b = { s with mtimecmp := setByte s.mtimecmp (a - s.cfg.mtimecmpAddr) b } := by
  rw [State.writePhys, apart, if_neg Bool.false_ne_true, if_pos h]

theorem State.writePhys_msip (apart : inRange a s.cfg.mtimeAddr 8 = false)
    (apart' : inRange a s.cfg.mtimecmpAddr 8 = false) (h : inRange a s.cfg.msipAddr 4 = true) :
    s.writePhys a b = { s with msip := if a = s.cfg.msipAddr then b.getLsbD 0 else s.msip } := by
  rw [State.writePhys, apart, if_neg Bool.false_ne_true, apart', if_neg Bool.false_ne_true, if_pos h]
  split <;> rfl

end

/-- A write of a byte is read back there, as far as the address holds it, and changes no other address (R920, R922). -/
theorem State.readPhys_writePhys (s : State) (wf : Memory.wf s.mem) (a : Nat) (b : Byte) (j : Nat) :
    (s.writePhys a b).readPhys j = if j = a then s.heldByte a b else s.readPhys j := by
  cases timer : inRange a s.cfg.mtimeAddr 8
  case true =>
    have held : s.heldByte a b = b := by simp [State.heldByte, State.wholeByte, timer]
    rw [State.writePhys_mtime b timer, held]
    simp only [State.readPhys]
    rw [inRange_iff] at timer
    by_cases there : inRange j s.cfg.mtimeAddr 8 = true
    · have place := (inRange_iff _ _ _).mp there
      simp only [there, if_true]
      rw [byteOf_setByte _ _ (by omega)]
      simp only [show j - s.cfg.mtimeAddr = a - s.cfg.mtimeAddr ↔ j = a by omega]
    · have other : j ≠ a := by rintro rfl; exact there ((inRange_iff _ _ _).mpr timer)
      simp only [there, other, if_false, Bool.false_eq_true]
  cases compare : inRange a s.cfg.mtimecmpAddr 8
  case true =>
    have held : s.heldByte a b = b := by simp [State.heldByte, State.wholeByte, compare]
    rw [State.writePhys_mtimecmp b timer compare, held]
    simp only [State.readPhys]
    have place := (inRange_iff _ _ _).mp compare
    by_cases there : inRange j s.cfg.mtimecmpAddr 8 = true
    · have place' := (inRange_iff _ _ _).mp there
      simp only [there, if_true]
      rw [byteOf_setByte _ _ (by omega)]
      by_cases same : j = a
      · subst same
        simp [timer]
      · simp only [show ¬ j - s.cfg.mtimecmpAddr = a - s.cfg.mtimecmpAddr by omega, same, if_false]
    · have other : j ≠ a := by rintro rfl; exact there compare
      simp only [there, other, if_false, Bool.false_eq_true]
  cases software : inRange a s.cfg.msipAddr 4
  case true =>
    have held : s.heldByte a b = if a = s.cfg.msipAddr ∧ b.getLsbD 0 then 1 else 0 := by
      simp [State.heldByte, State.wholeByte, timer, compare, software]
    rw [State.writePhys_msip b timer compare software, held]
    simp only [State.readPhys]
    by_cases same : j = a
    · subst same
      simp only [timer, compare, software, Bool.false_eq_true, if_false, if_true]
      by_cases base : j = s.cfg.msipAddr <;> simp [base]
    · by_cases base : a = s.cfg.msipAddr
      · have other : j ≠ s.cfg.msipAddr := fun h => same (h.trans base.symm)
        simp [same, other]
      · simp [same, base]
  have plain : s.plainAddr a = true := by simp [State.plainAddr, timer, compare, software]
  have held : s.heldByte a b = b := by simp [State.heldByte, State.wholeByte, software]
  rw [held, State.readPhys_writePhys_plain s a b j wf plain]

/-- What an address reads, it holds. -/
theorem State.heldByte_readPhys (s : State) (a : Nat) : s.heldByte a (s.readPhys a) = s.readPhys a := by
  unfold State.heldByte
  split
  · rfl
  · next part =>
    simp only [State.wholeByte, Bool.or_eq_true, Bool.not_eq_true', not_or, Bool.not_eq_true, Bool.not_eq_false] at part
    obtain ⟨⟨timer, compare⟩, software⟩ := part
    simp only [State.readPhys, timer, compare, software, Bool.false_eq_true, if_false, if_true]
    by_cases set : a = s.cfg.msipAddr ∧ s.msip = true <;> simp [set]

theorem State.heldByte_of_plain {s : State} {a : Nat} (plain : s.plainAddr a = true) (b : Byte) : s.heldByte a b = b := by
  simp only [State.plainAddr, Bool.and_eq_true, Bool.not_eq_true'] at plain
  simp [State.heldByte, State.wholeByte, plain.2]

/-! ## Bytes at rising addresses -/

/-- Bytes written at rising addresses are read back there, as far as the addresses hold them. -/
theorem State.readPhys_writeBytes (l : List Byte) (s : State) (wf : Memory.wf s.mem) (a j : Nat) :
    (s.writeBytes a l).readPhys j =
      if a ≤ j ∧ j < a + l.length then s.heldByte j (l.getD (j - a) 0) else s.readPhys j := by
  induction l generalizing s a with
  | nil => simp [State.writeBytes]
  | cons b l ih =>
    rw [State.writeBytes, ih _ (State.wf_writePhys s a b wf), State.readPhys_writePhys s wf,
      State.heldByte_congr (State.writePhys_cfg s a b), List.length_cons]
    by_cases first : j = a
    · subst first
      simp [show ¬ (j + 1 ≤ j) by omega]
    · by_cases later : a + 1 ≤ j ∧ j < a + 1 + l.length
      · rw [if_pos later, if_pos (by omega), show j - a = (j - (a + 1)) + 1 by omega, List.getD_cons_succ]
      · rw [if_neg later, if_neg first, if_neg (by omega)]

theorem State.readBytes_length (s : State) (a n : Nat) : (s.readBytes a n).length = n := by
  induction n generalizing a with
  | zero => rfl
  | succ n ih => rw [State.readBytes, List.length_cons, ih]

theorem State.readBytes_getD (s : State) (a : Nat) {n k : Nat} (hk : k < n) :
    (s.readBytes a n).getD k 0 = s.readPhys (a + k) := by
  induction n generalizing a k with
  | zero => omega
  | succ n ih =>
    cases k with
    | zero => rfl
    | succ k => rw [State.readBytes, List.getD_cons_succ, ih _ (by omega), show a + 1 + k = a + (k + 1) by omega]

theorem addrsFrom_length (p n : Nat) : (addrsFrom p n).length = n := by simp [addrsFrom_eq]

theorem mem_addrsFrom_iff (p n a : Nat) : a ∈ addrsFrom p n ↔ p ≤ a ∧ a < p + n := by
  rw [addrsFrom_eq]
  simp only [List.mem_map, List.mem_range]
  constructor
  · rintro ⟨k, hk, rfl⟩
    omega
  · intro h
    exact ⟨a - p, by omega, by omega⟩

theorem State.readAt_addrsFrom (s : State) (p n : Nat) : s.readAt (addrsFrom p n) = s.readBytes p n := by
  induction n generalizing p with
  | zero => rfl
  | succ n ih => rw [addrsFrom, State.readBytes, ← ih]; rfl

theorem State.writeAt_addrsFrom (l : List Byte) (s : State) (p : Nat) :
    s.writeAt (addrsFrom p l.length) l = s.writeBytes p l := by
  induction l generalizing s p with
  | nil => rfl
  | cons b l ih => exact ih _ _

/-- A write to some addresses leaves the others (R455). -/
theorem State.readPhys_writeAt_of_notMem {pas : List Nat} {j : Nat} (other : j ∉ pas) (l : List Byte) (s : State)
    (wf : Memory.wf s.mem) : (s.writeAt pas l).readPhys j = s.readPhys j := by
  induction pas generalizing l s with
  | nil => cases l <;> rfl
  | cons p pas ih =>
    rw [List.mem_cons, not_or] at other
    cases l with
    | nil => rfl
    | cons b l => rw [State.writeAt, ih other.2 _ _ (State.wf_writePhys s p b wf), State.readPhys_writePhys s wf, if_neg other.1]

end Sys2Proof.Machine
end

section
/-! What a translation leaves of memory: where the hardware updates page-table entries, accessed and dirty bits of valid
leaves, and nothing else (R562). -/

namespace Sys2Proof.Machine

open Sys2Proof

/-! ## Accessed and dirty bits -/

theorem State.OnlyAccessedDirtySet.refl (s : State) : s.OnlyAccessedDirtySet s := fun _ => .inl rfl

theorem or_accessedDirty {b x y : Byte} (hx : x = b ||| 0x40#8 ∨ x = b ||| 0xC0#8) (hy : y = x ||| 0x40#8 ∨ y = x ||| 0xC0#8) :
    y = b ||| 0x40#8 ∨ y = b ||| 0xC0#8 := by
  obtain rfl | rfl := hx <;> obtain rfl | rfl := hy <;> simp [BitVec.or_assoc]

theorem State.OnlyAccessedDirtySet.trans {s t u : State} (h : s.OnlyAccessedDirtySet t) (k : t.OnlyAccessedDirtySet u) :
    s.OnlyAccessedDirtySet u := by
  intro a
  obtain same | ⟨valid, leaf, set⟩ := h a
  · have later := k a
    rwa [same] at later
  · obtain same | ⟨-, -, set'⟩ := k a
    · exact .inr ⟨valid, leaf, by rwa [same]⟩
    · exact .inr ⟨valid, leaf, or_accessedDirty set set'⟩

/-- An entry value of a valid leaf: V, and R or X (R552 step 4). -/
def ValidLeaf (p : Word) : Prop := pteV p = true ∧ pteLeaf p = true

theorem byteOf_or (u v : Word) (k : Nat) : byteOf (u ||| v) k = byteOf u k ||| byteOf v k := by
  refine BitVec.eq_of_getLsbD_eq fun i hi => ?_
  simp only [byteOf_getLsbD _ _ hi, BitVec.getLsbD_or]

theorem byteOf_adBits_zero (kind : AccKind) : byteOf (adBits kind) 0 = 0x40#8 ∨ byteOf (adBits kind) 0 = 0xC0#8 := by
  cases kind <;> decide

theorem byteOf_adBits_pos (kind : AccKind) {k : Nat} (pos : k ≠ 0) : byteOf (adBits kind) k = 0 := by
  by_cases hk : k < 8
  · have each : ∀ k < 8, k ≠ 0 → byteOf (adBits kind) k = 0 := by cases kind <;> decide
    exact each k hk pos
  · exact byteOf_of_le (Nat.le_of_not_lt hk)

/-- The place in memory order of the byte of significance `k` among `n`. -/
theorem readPhysN_byteOf (s : State) (big : Bool) (a : Nat) {n k : Nat} (hn : n ≤ 8) (hk : k < n) :
    byteOf (s.readPhysN big a n) (if big then n - 1 - k else k) = s.readPhys (a + k) := by
  have place : (if big then n - 1 - k else k) < n := by split <;> omega
  have length := s.readBytes_length a n
  rw [State.readPhysN, byteOf_ofBytes _ (by omega), inOrder_getD big (by omega), length,
    show (if big then n - 1 - (if big then n - 1 - k else k) else (if big then n - 1 - k else k)) = k by
      cases big <;> simp; omega]
  exact s.readBytes_getD a hk

theorem bytesLE_inOrder_getD (big : Bool) (v : Word) {n k : Nat} (hk : k < n) :
    (inOrder big (bytesLE v n)).getD k 0 = byteOf v (if big then n - 1 - k else k) := by
  rw [inOrder_getD big (by rw [bytesLE_length]; exact hk), bytesLE_length, bytesLE_getD v (by split <;> omega)]

/-- An address that reads as the low byte of a valid leaf holds a whole byte. -/
theorem State.wholeByte_of_bits {s : State} {a : Nat}
    (leaf : (s.readPhys a).getLsbD 1 = true ∨ (s.readPhys a).getLsbD 3 = true) : s.wholeByte a = true := by
  by_contra part
  simp only [State.wholeByte, Bool.or_eq_true, Bool.not_eq_true', not_or, Bool.not_eq_true, Bool.not_eq_false] at part
  obtain ⟨⟨timer, compare⟩, software⟩ := part
  simp only [State.readPhys, timer, compare, software, Bool.false_eq_true, if_false, if_true] at leaf
  by_cases set : a = s.cfg.msipAddr ∧ s.msip = true <;> simp [set] at leaf

/-- Writing a valid leaf back with its A and D bits set changes its low byte alone (R562). -/
theorem State.onlyAccessedDirtySet_writePhysN {s : State} (wf : Memory.wf s.mem) {big : Bool} {a n : Nat} {p : Word}
    (size : n ≤ 8) (held : s.readPhysN big a n = p) (leaf : ValidLeaf p) (kind : AccKind) :
    s.OnlyAccessedDirtySet (s.writePhysN big a n (p ||| adBits kind)) := by
  intro j
  have length : (inOrder big (bytesLE (p ||| adBits kind) n)).length = n := by rw [inOrder_length, bytesLE_length]
  rw [State.writePhysN, State.readPhys_writeBytes _ s wf, length]
  by_cases inside : a ≤ j ∧ j < a + n
  case neg =>
    rw [if_neg inside]
    exact .inl rfl
  obtain ⟨k, rfl⟩ := Nat.exists_eq_add_of_le inside.1
  have hk : k < n := by omega
  have before := readPhysN_byteOf s big a size hk
  rw [held] at before
  rw [if_pos inside, Nat.add_sub_cancel_left, bytesLE_inOrder_getD big _ hk, byteOf_or, before]
  by_cases low : (if big then n - 1 - k else k) = 0
  · rw [low] at before ⊢
    have bit {i : Nat} (hi : i < 8) : (s.readPhys (a + k)).getLsbD i = p.getLsbD i := by
      rw [← before, byteOf_getLsbD p 0 hi, Nat.mul_zero, Nat.zero_add]
    obtain ⟨valid, kinds⟩ := leaf
    simp only [pteLeaf, pteR, pteX, Bool.or_eq_true] at kinds
    rw [← bit (by omega), ← bit (by omega)] at kinds
    have whole := State.wholeByte_of_bits kinds
    refine .inr ⟨by rw [bit (by omega)]; exact valid, kinds, ?_⟩
    rw [State.heldByte, if_pos whole]
    obtain set | set := byteOf_adBits_zero kind <;> rw [set]
    · exact .inl rfl
    · exact .inr rfl
  · have same : s.readPhys (a + k) ||| 0 = s.readPhys (a + k) := BitVec.or_zero
    rw [byteOf_adBits_pos kind low, same, State.heldByte_readPhys]
    exact .inl rfl

/-! ## What a walk leaves (R552, R562) -/

/-- What a translation leaves: a touched state, and of memory no more than A and D bits of valid leaves. -/
structure Updated (s t : State) : Prop extends Touched s t where
  ad : Memory.wf s.mem = true → s.OnlyAccessedDirtySet t

theorem Updated.refl (s : State) : Updated s s := ⟨Touched.refl s, fun _ => .refl s⟩

theorem Updated.trans {s t u : State} (h : Updated s t) (k : Updated t u) : Updated s u :=
  ⟨h.toTouched.trans k.toTouched, fun wf => (h.ad wf).trans (k.ad (h.wf wf))⟩

theorem Res.updated_bind {α β : Type} {s : State} {r : Res α} {f : α → State → Res β}
    (h : Updated s r.state) (k : ∀ a t, Updated t (f a t).state) : Updated s (r.bind f).state := by
  cases r with
  | ok a t => exact h.trans (k a t)
  | exn e t => exact h

/-- Memory and the devices read as before. -/
theorem Updated.of_cache {s t : State} (h : t = { s with tc := t.tc, draws := t.draws }) : Updated s t := by
  refine ⟨⟨by rw [h], fun wf => by rw [h]; exact wf⟩, fun _ a => .inl ?_⟩
  rw [h]
  rfl

theorem Updated.drawPte (s : State) (st : Stage) (q va sh : Nat) : Updated s (s.drawPte st q va sh).2 := by
  unfold State.drawPte
  split
  · exact .refl s
  · exact .of_cache rfl

theorem Updated.fillTc (s : State) (st : Stage) (q va sh : Nat) (g : Bool) (p : Word) (spec : Bool) :
    Updated s (s.fillTc st q va sh g p spec) := by
  unfold State.fillTc
  split
  · exact .refl s
  · exact .of_cache rfl

theorem State.fillTc_readPte (s : State) (st st' : Stage) (q va sh : Nat) (g : Bool) (p : Word) (spec : Bool) (a : Nat) :
    (s.fillTc st q va sh g p spec).readPte st' a = s.readPte st' a := by
  have bytes (n a : Nat) : (s.fillTc st q va sh g p spec).readBytes a n = s.readBytes a n := by
    have same (a : Nat) : (s.fillTc st q va sh g p spec).readPhys a = s.readPhys a := by
      unfold State.fillTc
      split <;> rfl
    induction n generalizing a with
    | zero => rfl
    | succ n ih => rw [State.readBytes, State.readBytes, same, ih]
  rw [State.readPte, State.readPte, State.readPhysN, State.readPhysN, bytes]

/-- What steps 3 to 6 find to be a leaf is valid. -/
theorem State.validLeaf_of_classify {s : State} {w : Walk} {level : Nat} {p : Word} (h : s.classify w level p = .leaf) :
    ValidLeaf p := by
  unfold State.classify at h
  split_ifs at h with bad pointer
  simp only [Bool.or_eq_true, Bool.not_eq_true', not_or, Bool.not_eq_false, Bool.not_eq_true] at bad pointer
  exact ⟨bad.1, pointer⟩

section
variable (w : Walk)

theorem Updated.walkOn {level : Nat} {g : Bool} {p : Word} {update : State → Res LevelEnd} (s : State)
    (hu : ValidLeaf p → Updated s (update s).state) : Updated s (walkOn w level g p update s).state := by
  unfold Machine.walkOn
  split
  · exact .refl s
  · exact .refl s
  · next leaf =>
    split
    · exact .refl s
    · split
      · exact .refl s
      · split
        · exact .refl s
        · exact hu (State.validLeaf_of_classify leaf)

theorem Updated.walkRead {level q : Nat} {g : Bool} {m : Mapping} {update : Word → State → Res LevelEnd} (s : State)
    (hu : ∀ p t, ValidLeaf p → t.readPte w.stage m.pa = p → Updated t (update p t).state) :
    Updated s (walkRead w level q g m update s).state := by
  unfold Machine.walkRead
  split
  · exact .refl s
  · refine (Updated.fillTc s _ _ _ _ _ _ _).trans (.walkOn w _ fun leaf => hu _ _ leaf ?_)
    exact s.fillTc_readPte _ _ _ _ _ _ _ _ _

section
variable (size : w.stage.scheme.pteSize ≤ 8)
include size

theorem Updated.writeBack {level pa : Nat} {p : Word} (s : State) (leaf : ValidLeaf p)
    (held : s.readPte w.stage pa = p) : Updated s (writeBack w level pa p s).state :=
  ⟨Touched.writePhysN s _ _ _ _, fun wf => State.onlyAccessedDirtySet_writePhysN wf size held leaf w.kind⟩

section
variable {toPhys : State → Nat → Bool → Res Mapping} (hp : ∀ s q b, Updated s (toPhys s q b).state)
include hp

theorem Updated.walkUpdate {level q : Nat} {again : Mapping → State → Res LevelEnd} {p : Word} (s : State)
    (leaf : ValidLeaf p) (ha : ∀ m t, Updated t (again m t).state) :
    Updated s (walkUpdate w toPhys level q again p s).state := by
  refine Res.updated_bind (hp s q true) fun m t => ?_
  split
  · exact .refl t
  · split
    · next held => exact .writeBack w size t leaf held
    · exact ha m t

theorem Updated.walkPass {level q : Nat} {g : Bool} {again : Mapping → State → Res LevelEnd} (s : State)
    (ha : ∀ m t, Updated t (again m t).state) : Updated s (walkPass w toPhys level q g again s).state := by
  unfold Machine.walkPass
  dsimp only
  refine (Updated.drawPte s w.stage q w.va (levelShift w.stage.scheme level)).trans ?_
  split
  · exact .walkOn w _ fun leaf => .walkUpdate w size hp _ leaf ha
  · exact Res.updated_bind (hp _ q false) fun m t =>
      .walkRead w t fun p u leaf _ => .walkUpdate w size hp u leaf ha

theorem Updated.walkEntry {level q : Nat} {g : Bool} (s : State) : Updated s (walkEntry w toPhys level q g s).state :=
  .walkPass w size hp s fun _ t => .walkPass w size hp t fun _ u =>
    .walkRead w u fun _ v leaf held => .writeBack w size v leaf held

theorem Updated.walkFrom (level a : Nat) (g : Bool) (s : State) : Updated s (walkFrom w toPhys level a g s).state := by
  induction level generalizing a g s with
  | zero =>
    refine Res.updated_bind (.walkEntry w size hp s) fun e t => ?_
    split <;> exact .refl t
  | succ n ih =>
    refine Res.updated_bind (.walkEntry w size hp s) fun e t => ?_
    split
    · exact .refl t
    · exact ih _ _ t

theorem Updated.walkRoot (s : State) : Updated s (walkRoot w toPhys s).state := .walkFrom w size hp _ _ _ s

end
end
end

/-! ## What a translation, and the first steps of an access, leave -/

theorem schemeOf_pteSize {xl : Xlen} {v : Word} {sc : Scheme} (h : schemeOf xl v = some sc) : sc.pteSize ≤ 8 := by
  unfold schemeOf at h
  split at h <;> cases h <;> decide

theorem State.schemeOf_of_hsScheme {s : State} {sc : Scheme} (h : s.hsScheme = some sc) :
    schemeOf s.sxlen s.s.atp = some sc := by
  unfold State.hsScheme at h
  split at h
  · exact h
  · cases h

section
variable (s : State) (k : AccKind) (hlvx : Bool) (p : Priv) (o : Orig) (spec : Bool)

theorem Updated.gTranslate (gpa : Nat) (i : Option Bool) : Updated s (s.gTranslate gpa k hlvx i o spec).state := by
  unfold State.gTranslate
  split
  · exact .refl s
  · next scheme =>
    dsimp only
    split
    · exact .refl s
    · exact .walkRoot _ (schemeOf_pteSize scheme) (fun t _ _ => by exact .refl t) s

theorem Updated.vsTranslate : Updated s (s.vsTranslate k hlvx p o spec).state := by
  unfold State.vsTranslate
  split
  · exact .refl s
  · next scheme =>
    split
    · exact .refl s
    · exact .walkRoot _ (schemeOf_pteSize scheme) (fun t q b => .gTranslate t _ _ _ _ _ _) s

theorem Updated.translate1 : Updated s (s.translate1 k hlvx p o spec).state := by
  unfold State.translate1
  split
  · exact .refl s
  · next scheme =>
    have size : _ := schemeOf_pteSize (State.schemeOf_of_hsScheme scheme)
    split
    · exact .refl s
    · exact Res.updated_bind (.walkRoot _ size (fun t _ _ => by exact .refl t) s) fun _ t => .refl t

theorem Updated.translate2 : Updated s (s.translate2 k hlvx p o spec).state :=
  Res.updated_bind (.vsTranslate s _ _ _ _ _) fun _ s1 =>
    Res.updated_bind (.gTranslate s1 _ _ _ _ _ _) fun _ s2 => .refl s2

theorem Updated.translate (v : Bool) : Updated s (s.translate k hlvx p v o).state := by
  unfold State.translate
  split
  · exact .refl s
  · exact .translate1 s _ _ _ _ _
  · exact .translate2 s _ _ _ _ _

end

section
variable (s : State) (a : Acc) (ea : Word)

theorem Updated.locate (va : Word) (n : Nat) : Updated s (s.locate a ea va n).state := by
  refine Res.updated_bind (.translate s _ _ _ _ _) fun t s1 => ?_
  split <;> exact .refl s1

theorem Updated.locatePortion (off n : Nat) : Updated s (s.locatePortion a ea off n).state := by
  refine Res.updated_bind (.translate s _ _ _ _ _) fun t s1 => ?_
  split <;> exact .refl s1

theorem Updated.locateBytes : Updated s (s.locateBytes a ea).state := by
  refine Res.updated_bind (.locatePortion s _ _ _ _) fun l s1 => ?_
  split
  · exact .refl s1
  · exact Res.updated_bind (.locatePortion s1 _ _ _ _) fun r s2 => .refl s2

theorem Updated.resolve : Updated s (s.resolve a ea).state := by
  unfold State.resolve
  dsimp only
  split
  · exact Res.updated_bind (.locate s _ _ _ _) fun _ s1 => .refl s1
  · split
    · exact .refl s
    · refine Res.updated_bind (.locateBytes s _ _) fun l s1 => ?_
      split
      · exact .refl s1
      · split <;> exact .refl s1

end

/-- What resolving an access leaves (R562, R570). -/
theorem State.translatedTo_of_resolve {s t : State} {a : Acc} {va : Word} {pas : List Nat}
    (h : s.resolve a va = .ok pas t) : s.TranslatedTo t := by
  have walked := Walked.resolve s a va
  have updated := Updated.resolve s a va
  rw [h] at walked updated
  refine ⟨walked.same, fun fault j => ?_, updated.ad⟩
  obtain ⟨mem, mtime, mtimecmp, msip⟩ := walked.calm fault
  have same : t = { s with tc := t.tc, draws := t.draws } := by
    have := walked.same
    rw [mem, mtime, mtimecmp, msip] at this
    exact this
  rw [same]
  rfl

/-! ## How many addresses an access has -/

theorem Res.bind_eq_ok {α β : Type} {r : Res α} {f : α → State → Res β} {b : β} {u : State}
    (h : r.bind f = .ok b u) : ∃ v t, r = .ok v t ∧ f v t = .ok b u := by
  cases r with
  | ok v t => exact ⟨v, t, rfl, h⟩
  | exn e t => cases h

theorem State.length_of_locatePortion {s t : State} {a : Acc} {ea : Word} {off n : Nat} {l : List Target}
    (h : s.locatePortion a ea off n = .ok l t) : l.length = n := by
  unfold State.locatePortion at h
  obtain ⟨m, u, -, rest⟩ := Res.bind_eq_ok h
  split at rest
  · cases rest
    simp
  · cases rest

theorem State.length_of_locateBytes {s t : State} {a : Acc} {ea : Word} {l : List Target}
    (h : s.locateBytes a ea = .ok l t) : l.length = a.n := by
  unfold State.locateBytes at h
  obtain ⟨first, u, portion, rest⟩ := Res.bind_eq_ok h
  have count := State.length_of_locatePortion portion
  split at rest
  · next whole =>
    cases rest
    omega
  · obtain ⟨second, v, portion', rest⟩ := Res.bind_eq_ok rest
    have count' := State.length_of_locatePortion portion'
    cases rest
    rw [List.length_append, count, count']
    have := Nat.min_le_left a.n (4096 - ea.toNat % 4096)
    omega

/-- An access resolves to one address for each byte (R500). -/
theorem State.length_of_resolve {s t : State} {a : Acc} {va : Word} {pas : List Nat} (h : s.resolve a va = .ok pas t) :
    pas.length = a.n := by
  unfold State.resolve at h
  dsimp only at h
  split at h
  · obtain ⟨pa, u, -, rest⟩ := Res.bind_eq_ok h
    cases rest
    exact addrsFrom_length _ _
  · split at h
    · cases h
    · obtain ⟨l, u, located, rest⟩ := Res.bind_eq_ok h
      have count := State.length_of_locateBytes located
      split at rest
      · cases rest
        rw [List.length_map, count]
      · split at rest <;> cases rest

end Sys2Proof.Machine
end

section
/-! Loads and stores: what a resolved access reads into `rd`, and what it writes to memory (R455, R820, R1003). -/

namespace Sys2Proof.Machine

open Sys2Proof

/-! ## The instructions as accesses -/

theorem State.effAddr_eq (s : State) (rs1 : RegIdx) (imm : BitVec 12) :
    s.effAddr rs1 imm = zxTo s.xlen (s.readX rs1 + imm.signExtend 64) := zxTo_congr (sxTo_add_left _ _ _)

theorem State.baseAddr_eq (s : State) (rs1 : RegIdx) : s.baseAddr rs1 = zxTo s.xlen (s.readX rs1) := zxTo_sxTo _ _

theorem State.guarded_rv64 {s : State} (wide : s.xlen = .x64) (w : BitVec 32) (k : State → Out) :
    s.guarded w s.rv64Permit k = k s := by
  rw [State.rv64Permit, if_pos wide, State.guarded_ok]

theorem State.guarded_of_exec {i : Instr} {s : State} {w : BitVec 32} {k : State → Out}
    (meaning : exec i s = s.guarded w s.rv64Permit k) (wide : s.xlen = .x64) : exec i s = k s :=
  meaning.trans (State.guarded_rv64 wide w k)

theorem exec_ld (s : State) (rd rs1 : RegIdx) (imm : BitVec 12) : exec (.ld rd rs1 imm) s =
    s.guarded (encode (.ld rd rs1 imm)) s.rv64Permit fun s =>
      s.loadTo (encode (.ld rd rs1 imm)) { kind := .load, n := 8 } rd (s.effAddr rs1 imm) (sextBytes 8) := by
  rfl

theorem exec_lwu (s : State) (rd rs1 : RegIdx) (imm : BitVec 12) : exec (.lwu rd rs1 imm) s =
    s.guarded (encode (.lwu rd rs1 imm)) s.rv64Permit fun s =>
      s.loadTo (encode (.lwu rd rs1 imm)) { kind := .load, n := 4 } rd (s.effAddr rs1 imm) (zextBytes 4) := by
  rfl

theorem exec_sd (s : State) (rs1 rs2 : RegIdx) (imm : BitVec 12) : exec (.sd rs1 rs2 imm) s =
    s.guarded (encode (.sd rs1 rs2 imm)) s.rv64Permit fun s =>
      s.storeFrom (encode (.sd rs1 rs2 imm)) { kind := .store, n := 8 } (s.effAddr rs1 imm) (s.src rs2) := by
  rfl

theorem exec_sw (s : State) (rs1 rs2 : RegIdx) (imm : BitVec 12) : exec (.sw rs1 rs2 imm) s =
    s.storeFrom (encode (.sw rs1 rs2 imm)) { kind := .store, n := 4 } (s.effAddr rs1 imm) (s.src rs2) := by
  rfl

/-- Each load is a load of its width and sign, where it exists (R1003). -/
theorem exec_plainLoad (s : State) (rd rs1 : RegIdx) (imm : BitVec 12) : ∀ row ∈ plainLoads,
    (row.2.2.2 = true → s.xlen = .x64) → exec (row.1 rd rs1 imm) s =
      s.loadTo (encode (row.1 rd rs1 imm)) { kind := .load, n := row.2.1 } rd
        (zxTo s.xlen (s.readX rs1 + imm.signExtend 64)) (if row.2.2.1 then sextBytes row.2.1 else zextBytes row.2.1) := by
  rw [← s.effAddr_eq]
  simp only [plainLoads, List.forall_mem_cons]
  exact ⟨fun _ => rfl, fun _ => rfl, fun _ => rfl,
    fun wide => State.guarded_of_exec (exec_ld s rd rs1 imm) (wide trivial),
    fun _ => rfl, fun _ => rfl, fun wide => State.guarded_of_exec (exec_lwu s rd rs1 imm) (wide trivial),
    List.forall_mem_nil _⟩

/-- Each store is a store of its width, where it exists (R1003). -/
theorem exec_plainStore (s : State) (rs1 rs2 : RegIdx) (imm : BitVec 12) : ∀ row ∈ plainStores,
    (row.2.2 = true → s.xlen = .x64) → exec (row.1 rs1 rs2 imm) s =
      s.storeFrom (encode (row.1 rs1 rs2 imm)) { kind := .store, n := row.2.1 }
        (zxTo s.xlen (s.readX rs1 + imm.signExtend 64)) (s.src rs2) := by
  rw [← s.effAddr_eq]
  simp only [plainStores, List.forall_mem_cons]
  exact ⟨fun _ => rfl, fun _ => rfl, fun _ => rfl,
    fun wide => State.guarded_of_exec (exec_sd s rs1 rs2 imm) (wide trivial),
    List.forall_mem_nil _⟩

theorem State.hlvPermit_of_permitted {s : State} {rv64 : Bool} (h : GuestAccessPermitted s rv64) :
    s.hlvPermit rv64 = .ok := by
  obtain ⟨present, host, hu, wide⟩ := h
  have fits : (rv64 && decide (s.xlen = .x32)) = false := by
    cases rv64
    · rfl
    · rw [wide rfl]; rfl
  have user : ¬ (s.priv = .user ∧ !s.h.status.hu) := by
    rintro ⟨user, noHu⟩
    simp [hu user] at noHu
  rw [State.hlvPermit, present, fits, host, if_neg user]
  rfl

/-! ## A resolved load -/

theorem EndsWith.of_retire {i : Instr} {s t : State} {rd : RegIdx} {v : Word} (pc : t.pc = s.pc)
    (run : exec i s = .next (t.writeX rd v).retire) : EndsWith i s t rd v (s.pc + 4) := by
  have goes : (t.writeX rd v).retire = (t.writeX rd v).retireTo (s.pc + 4) := by
    have kept : (t.writeX rd v).pc = t.pc := by rw [State.writeX_same]
    rw [State.retire, kept, pc]
  have done := t.done_retireTo_writeX rd v (s.pc + 4)
  rw [goes] at run
  exact ⟨_, run, t.wrote_retireTo_writeX rd _ fun _ => rfl, done, done.sameMemory⟩

/-- What a load writes to `rd` is the value of the bytes at its addresses (R455, R1003). -/
theorem loadedValue_eq (s t : State) (a : Acc) (signed : Bool) {pas : List Nat} (length : pas.length = a.n) :
    (if signed then sextBytes a.n else zextBytes a.n) (ofBytes (inOrder (s.bigEndian a) (t.readAt pas)))
      = loadedValue (s.bigEndian a) signed (pas.map t.readPhys) := by
  rw [loadedValue, List.length_map, length]
  cases signed <;> rfl

/-- A load that resolves (R500, R1003). -/
theorem load_completes {i : Instr} {s t : State} {a : Acc} {rd : RegIdx} {va : Word} {pas : List Nat} (signed : Bool)
    (run : exec i s = s.loadTo (encode i) a rd va (if signed then sextBytes a.n else zextBytes a.n))
    (resolved : s.resolve a va = .ok pas t) :
    pas.length = a.n ∧ s.TranslatedTo t
      ∧ EndsWith i s t rd (loadedValue (s.bigEndian a) signed (pas.map t.readPhys)) (s.pc + 4) := by
  have length := State.length_of_resolve resolved
  have translated := State.translatedTo_of_resolve resolved
  refine ⟨length, translated, .of_retire (by rw [translated.1]) ?_⟩
  rw [run, State.loadTo_ok s t _ a rd va _ pas resolved, loadedValue_eq s t a signed length]

/-- Settles O31: each load is a load of its width and sign. -/
theorem loadsComplete : Obligations.LoadsComplete := by
  unfold Obligations.LoadsComplete
  intro row member s t rd rs1 imm pas wide resolved
  exact load_completes row.2.2.1 (exec_plainLoad s rd rs1 imm row member wide) resolved

/-- Settles O36: where permitted, each is a load of its width and sign, with V = 1. -/
theorem guestLoadsComplete : Obligations.GuestLoadsComplete := by
  unfold Obligations.GuestLoadsComplete
  intro row member s t rd rs1 pas permitted a resolved
  refine load_completes row.2.2.1 ?_ resolved
  rw [exec_guestLoad s rd rs1 row member, State.hlvPermit_of_permitted permitted, State.guarded_ok, State.baseAddr_eq]

/-- Settles O33: the state that the access leaves takes the exception. -/
theorem loadStoreFaults : Obligations.LoadStoreFaults := by
  unfold Obligations.LoadStoreFaults
  refine ⟨fun row member s t rd rs1 imm e wide raised => ⟨?_, ?_⟩, fun row member s t rs1 rs2 imm e wide raised => ?_⟩
  · rw [exec_plainLoad s rd rs1 imm row member wide, State.loadTo_exn s t _ _ rd _ _ e raised]
  · have walked := Walked.resolve s { kind := .load, n := row.2.1 } (zxTo s.xlen (s.readX rs1 + imm.signExtend 64))
    rw [raised, Res.state_exn] at walked
    rw [State.takeException_x, walked.same]
  · rw [exec_plainStore s rs1 rs2 imm row member wide, State.storeFrom_exn s t _ _ _ _ e raised]

/-! ## A resolved store -/

theorem State.writePhys_same (s : State) (a : Nat) (b : Byte) : s.writePhys a b = { s with
    mem := (s.writePhys a b).mem, mtime := (s.writePhys a b).mtime, mtimecmp := (s.writePhys a b).mtimecmp
    msip := (s.writePhys a b).msip } := by
  unfold State.writePhys
  split_ifs <;> rfl

theorem State.writeAt_same (pas : List Nat) (l : List Byte) (s : State) : s.writeAt pas l = { s with
    mem := (s.writeAt pas l).mem, mtime := (s.writeAt pas l).mtime, mtimecmp := (s.writeAt pas l).mtimecmp
    msip := (s.writeAt pas l).msip } := by
  induction pas generalizing l s with
  | nil => cases l <;> rfl
  | cons p pas ih =>
    cases l with
    | nil => rfl
    | cons b l =>
      have rest := ih l (s.writePhys p b)
      rw [State.writePhys_same s p b] at rest
      rw [State.writeAt, State.writePhys_same s p b]
      exact rest

theorem State.retire_writeAt (s : State) (pas : List Nat) (l : List Byte) : (s.writeAt pas l).retire = { s with
    mem := (s.writeAt pas l).mem, mtime := (s.writeAt pas l).mtime, mtimecmp := (s.writeAt pas l).mtimecmp
    msip := (s.writeAt pas l).msip, pc := sxTo s.xlen (s.pc + 4), m := { s.m with instret := s.nextInstret } } := by
  rw [State.retire, State.retireTo_eq, State.writeAt_same]
  rfl

theorem State.readPhys_retire (s : State) (a : Nat) : s.retire.readPhys a = s.readPhys a := by
  rw [State.retire, State.retireTo_eq]
  rfl

/-- A store of `v` that resolves writes its bytes where they can be held, and nothing else (R455, R500, R1003). -/
theorem store_completes {i : Instr} {s t : State} {a : Acc} {va v x : Word} {pas : List Nat}
    (wf : Memory.wf s.mem = true) (run : exec i s = s.storeFrom (encode i) a va v)
    (bytes : ∀ k < a.n, byteOf v k = byteOf x k) (resolved : s.resolve a va = .ok pas t) :
    s.TranslatedTo t ∧ Stored i s t (s.bigEndian a) a.n x pas (s.pc + 4) := by
  have translated := State.translatedTo_of_resolve resolved
  have touched := (Walked.resolve s a va).wf
  rw [resolved] at touched
  have wf' : Memory.wf t.mem = true := touched wf
  have pc : t.pc = s.pc := by rw [translated.1]
  have size : (inOrder (s.bigEndian a) (bytesLE v a.n)).length = a.n := by rw [inOrder_length, bytesLE_length]
  refine ⟨translated, _, run.trans (State.storeFrom_ok s t _ a va v pas resolved), ?_, fun j other => ?_,
    fun p consecutive plain k hk => ?_⟩
  · rw [State.retire_writeAt, pc]
  · rw [State.readPhys_retire, State.readPhys_writeAt_of_notMem other _ _ wf']
  · subst consecutive
    have member : p + k ∈ addrsFrom p a.n := (mem_addrsFrom_iff _ _ _).mpr ⟨by omega, by omega⟩
    have written := State.writeAt_addrsFrom (inOrder (s.bigEndian a) (bytesLE v a.n)) t p
    rw [size] at written
    rw [State.readPhys_retire, written, State.readPhys_writeBytes _ t wf', size, if_pos (by omega),
      Nat.add_sub_cancel_left, State.heldByte_of_plain (plain _ member), bytesLE_inOrder_getD _ _ hk]
    exact bytes _ (by split <;> omega)

/-- The bytes that a store takes from a register are those of the register as it is held (R36). -/
theorem State.byteOf_src {s : State} {n k : Nat} (fits : n ≤ 4 ∨ s.xlen = .x64) (hk : k < n) (r : RegIdx) :
    byteOf (s.src r) k = byteOf (s.readX r) k := by
  obtain short | wide := fits
  · refine BitVec.eq_of_getLsbD_eq fun i hi => ?_
    rw [byteOf_getLsbD _ _ hi, byteOf_getLsbD _ _ hi, State.src, sxTo_getLsbD_of_lt _ _ (by omega)]
  · rw [State.src, wide]
    rfl

theorem width_of_plainStore : ∀ row ∈ plainStores, row.2.1 ≤ 4 ∨ row.2.2 = true := by simp [plainStores]

theorem width_of_guestStore : ∀ row ∈ guestStores, row.2.1 ≤ 4 ∨ row.2.2 = true := by simp [guestStores]

/-- Settles O32: each store is a store of its width. -/
theorem storesComplete : Obligations.StoresComplete := by
  unfold Obligations.StoresComplete
  intro row member s t rs1 rs2 imm pas wf wide resolved
  have fits := (width_of_plainStore row member).imp_right wide
  exact store_completes wf (exec_plainStore s rs1 rs2 imm row member wide) (fun k hk => State.byteOf_src fits hk rs2)
    resolved

/-- Settles O37: where permitted, each is a store of its width, with V = 1. -/
theorem guestStoresComplete : Obligations.GuestStoresComplete := by
  unfold Obligations.GuestStoresComplete
  intro row member s t rs1 rs2 pas wf permitted a resolved
  have fits := (width_of_guestStore row member).imp_right permitted.2.2.2
  refine store_completes wf ?_ (fun k hk => State.byteOf_src fits hk rs2) resolved
  rw [exec_guestStore s rs1 rs2 row member, State.hlvPermit_of_permitted permitted, State.guarded_ok, State.baseAddr_eq]

end Sys2Proof.Machine
end

section
/-! Aligned loads and stores of M-mode, and through them the timer and the software-interrupt word (R500, R920, R922). -/

namespace Sys2Proof.Machine

open Sys2Proof

/-! ## Bytes of a doubleword -/

/-- `w` with its bytes from `j` upward replaced by `l`. -/
def setBytes (w : Word) (j : Nat) : List Byte → Word
  | [] => w
  | b :: l => setBytes (setByte w j b) (j + 1) l

theorem byteOf_setBytes (l : List Byte) (w : Word) (j : Nat) {k : Nat} (hk : k < 8) :
    byteOf (setBytes w j l) k = if j ≤ k ∧ k < j + l.length then l.getD (k - j) 0 else byteOf w k := by
  induction l generalizing w j with
  | nil => rw [setBytes, List.length_nil, if_neg (by omega)]
  | cons b l ih =>
    rw [setBytes, ih, byteOf_setByte _ _ hk, List.length_cons]
    by_cases first : k = j
    · subst first
      simp [show ¬ (k + 1 ≤ k) by omega]
    · by_cases later : j + 1 ≤ k ∧ k < j + 1 + l.length
      · rw [if_pos later, if_pos (by omega), show k - j = (k - (j + 1)) + 1 by omega, List.getD_cons_succ]
      · rw [if_neg later, if_neg first, if_neg (by omega)]

theorem getLsbD_eq_byteOf (w : Word) (i : Nat) : w.getLsbD i = (byteOf w (i / 8)).getLsbD (i % 8) := by
  rw [byteOf_getLsbD _ _ (Nat.mod_lt _ (by decide)), Nat.div_add_mod]

theorem setBytes_bytesLE_getLsbD (w v : Word) {j n i : Nat} (hi : i < 64) :
    (setBytes w j (bytesLE v n)).getLsbD i =
      if 8 * j ≤ i ∧ i < 8 * (j + n) then v.getLsbD (i - 8 * j) else w.getLsbD i := by
  rw [getLsbD_eq_byteOf, byteOf_setBytes _ _ _ (by omega), bytesLE_length]
  by_cases inside : j ≤ i / 8 ∧ i / 8 < j + n
  · rw [if_pos inside, if_pos (by omega), bytesLE_getD _ (by omega), getLsbD_eq_byteOf v,
      show (i - 8 * j) / 8 = i / 8 - j by omega, show (i - 8 * j) % 8 = i % 8 by omega]
  · rw [if_neg inside, if_neg (by omega), ← getLsbD_eq_byteOf]

theorem setBytes_whole (w v : Word) : setBytes w 0 (bytesLE v 8) = v := by
  refine BitVec.eq_of_getLsbD_eq fun i hi => ?_
  rw [setBytes_bytesLE_getLsbD w v hi, if_pos (by omega)]
  rfl

theorem lowHalf_getLsbD {i : Nat} : (0xFFFFFFFF#64).getLsbD i = decide (i < 32) :=
  getLsbD_eq_of_fin (p := fun i => decide (i < 32)) (by decide) (fun k _ => by simp; omega) i

theorem highHalf_getLsbD {i : Nat} : (0xFFFFFFFF00000000#64).getLsbD i = decide (32 ≤ i ∧ i < 64) :=
  getLsbD_eq_of_fin (p := fun i => decide (32 ≤ i ∧ i < 64)) (by decide) (fun k _ => by simp; omega) i

theorem setBytes_low (w v : Word) :
    setBytes w 0 (bytesLE v 4) = (w &&& 0xFFFFFFFF00000000#64) ||| (v &&& 0xFFFFFFFF#64) := by
  refine BitVec.eq_of_getLsbD_eq fun i hi => ?_
  rw [setBytes_bytesLE_getLsbD w v hi, BitVec.getLsbD_or, BitVec.getLsbD_and, BitVec.getLsbD_and,
    lowHalf_getLsbD, highHalf_getLsbD]
  by_cases low : i < 32
  · simp [low, show ¬ 32 ≤ i by omega]
  · simp [low, hi, show 32 ≤ i by omega]

theorem setBytes_high (w v : Word) :
    setBytes w 4 (bytesLE v 4) = (w &&& 0xFFFFFFFF#64) ||| (v <<< 32) := by
  refine BitVec.eq_of_getLsbD_eq fun i hi => ?_
  rw [setBytes_bytesLE_getLsbD w v hi, BitVec.getLsbD_or, BitVec.getLsbD_and, BitVec.getLsbD_shiftLeft,
    lowHalf_getLsbD]
  by_cases low : i < 32
  · simp [low, show ¬ 32 ≤ i by omega]
  · simp [low, hi, show 32 ≤ i by omega]

/-! ## Bytes of the devices -/

theorem State.readBytes_eq (s : State) (a : Nat) {l : List Byte} (bytes : ∀ k < l.length, s.readPhys (a + k) = l.getD k 0) :
    s.readBytes a l.length = l := by
  induction l generalizing a with
  | nil => rfl
  | cons b l ih =>
    have first : s.readPhys a = b := bytes 0 (Nat.succ_pos _)
    rw [List.length_cons, State.readBytes, first, ih (a + 1) fun k hk => ?_]
    rw [show a + 1 + k = a + (k + 1) by omega, bytes (k + 1) (by simpa using hk), List.getD_cons_succ]

theorem State.readBytes_mtime (s : State) : s.readBytes s.cfg.mtimeAddr 8 = bytesLE s.mtime 8 := by
  have timer := s.readBytes_eq s.cfg.mtimeAddr (l := bytesLE s.mtime 8) fun k hk => ?_
  · rwa [bytesLE_length] at timer
  · rw [bytesLE_length] at hk
    rw [bytesLE_getD _ hk, State.readPhys, if_pos ((inRange_iff _ _ _).mpr ⟨by omega, by omega⟩), Nat.add_sub_cancel_left]

theorem inRange_eq_false {a base n : Nat} (h : a < base ∨ base + n ≤ a) : inRange a base n = false := by
  rw [Bool.eq_false_iff, Ne, inRange_iff]
  omega

/-- Bytes written into `mtimecmp` replace its own (R920). -/
theorem State.writeBytes_mtimecmp (l : List Byte) (s : State) (j : Nat) (fits : j + l.length ≤ 8)
    (apart : s.cfg.mtimecmpAddr + 8 ≤ s.cfg.mtimeAddr ∨ s.cfg.mtimeAddr + 8 ≤ s.cfg.mtimecmpAddr) :
    s.writeBytes (s.cfg.mtimecmpAddr + j) l = { s with mtimecmp := setBytes s.mtimecmp j l } := by
  induction l generalizing s j with
  | nil => rfl
  | cons b l ih =>
    rw [List.length_cons] at fits
    rw [State.writeBytes, State.writePhys_mtimecmp b (inRange_eq_false (by omega)) ((inRange_iff _ _ _).mpr (by omega)),
      Nat.add_sub_cancel_left]
    exact ih { s with mtimecmp := setByte s.mtimecmp j b } (j + 1) (by omega) apart

section
variable {s : State} (timer : s.cfg.msipAddr + 8 ≤ s.cfg.mtimeAddr ∨ s.cfg.mtimeAddr + 8 ≤ s.cfg.msipAddr)
  (compare : s.cfg.msipAddr + 8 ≤ s.cfg.mtimecmpAddr ∨ s.cfg.mtimecmpAddr + 8 ≤ s.cfg.msipAddr)
include timer compare

/-- The bytes of the software-interrupt word above its first hold nothing (R922). -/
theorem State.writeBytes_msip_above (l : List Byte) {a : Nat} (above : s.cfg.msipAddr < a)
    (fits : a + l.length ≤ s.cfg.msipAddr + 4) : s.writeBytes a l = s := by
  induction l generalizing a with
  | nil => rfl
  | cons b l ih =>
    rw [List.length_cons] at fits
    rw [State.writeBytes, State.writePhys_msip b (inRange_eq_false (by omega)) (inRange_eq_false (by omega))
      ((inRange_iff _ _ _).mpr (by omega)), if_neg (by omega)]
    exact ih (by omega) (by omega)

/-- Of the software-interrupt word bit 0 is written (R922). -/
theorem State.writeBytes_msip (v : Word) : s.writeBytes s.cfg.msipAddr (bytesLE v 4) = { s with msip := v.getLsbD 0 } := by
  have first : s.writePhys s.cfg.msipAddr (v.setWidth 8) = { s with msip := v.getLsbD 0 } := by
    rw [State.writePhys_msip _ (inRange_eq_false (by omega)) (inRange_eq_false (by omega))
      ((inRange_iff _ _ _).mpr (by omega)), if_pos rfl, BitVec.getLsbD_setWidth]
    rfl
  rw [bytesLE, State.writeBytes, first]
  exact State.writeBytes_msip_above (s := { s with msip := v.getLsbD 0 }) timer compare _ (Nat.lt_succ_self _)
    (by rw [bytesLE_length])

end

theorem State.retire_setMtimecmp (s : State) (w : Word) :
    State.retire { s with mtimecmp := w } = { s.retire with mtimecmp := w } := by
  simp only [State.retire, State.retireTo_eq]
  rfl

theorem State.retire_setMsip (s : State) (b : Bool) : State.retire { s with msip := b } = { s.retire with msip := b } := by
  simp only [State.retire, State.retireTo_eq]
  rfl

/-! ## Aligned accesses of M-mode -/

section
variable {s : State} {a : Acc} {va : Word} (machine : s.priv = .machine) (wide : s.mxlen = .x64)
  (mprv : s.mstatus.mprv = false)
include machine wide

theorem State.xlen_of_machine : s.xlen = .x64 := by
  rw [State.xlen, machine]
  exact wide

include mprv

theorem State.resolve_aligned (kind : a.kind ≠ .fetch) (plain : a.hlv = false) (aligned : va.toNat % a.n = 0)
    (allowed : s.physAllowed a .machine { pa := va.toNat, gPbmt := 0, sPbmt := 0 } a.n a.n = true) :
    s.resolve a va = .ok (addrsFrom va.toNat a.n) s := by
  obtain ⟨v, mode⟩ := State.effMode_machine kind plain machine mprv
  have same : zxTo s.mxlen va = va := by rw [wide]; rfl
  rw [State.resolve_machine mode va (.inr (by rwa [same])), same, if_pos allowed]

omit wide in
theorem State.bigEndian_machine (kind : a.kind ≠ .fetch) (plain : a.hlv = false) : s.bigEndian a = s.mbe := by
  obtain ⟨v, mode⟩ := State.effMode_machine kind plain machine mprv
  rw [State.bigEndian, if_neg kind, mode]
  rfl

/-- An aligned store of M-mode writes its bytes at its address (R500). -/
theorem State.storeFrom_aligned (w : BitVec 32) (v : Word) (kind : a.kind ≠ .fetch) (plain : a.hlv = false)
    (aligned : va.toNat % a.n = 0)
    (allowed : s.physAllowed a .machine { pa := va.toNat, gPbmt := 0, sPbmt := 0 } a.n a.n = true) :
    s.storeFrom w a va v = .next (s.writeBytes va.toNat (inOrder s.mbe (bytesLE v a.n))).retire := by
  have size : (inOrder s.mbe (bytesLE v a.n)).length = a.n := by rw [inOrder_length, bytesLE_length]
  rw [State.storeFrom_ok s s w a va v _ (State.resolve_aligned machine wide mprv kind plain aligned allowed),
    State.bigEndian_machine machine mprv kind plain, ← State.writeAt_addrsFrom, size]

/-- An aligned load of M-mode reads the bytes at its address (R500). -/
theorem State.loadTo_aligned (w : BitVec 32) (rd : RegIdx) (ext : Word → Word) (kind : a.kind ≠ .fetch)
    (plain : a.hlv = false) (aligned : va.toNat % a.n = 0)
    (allowed : s.physAllowed a .machine { pa := va.toNat, gPbmt := 0, sPbmt := 0 } a.n a.n = true) :
    s.loadTo w a rd va ext
      = .next (s.writeX rd (ext (ofBytes (inOrder s.mbe (s.readBytes va.toNat a.n))))).retire := by
  rw [State.loadTo_ok s s w a rd va ext _ (State.resolve_aligned machine wide mprv kind plain aligned allowed),
    State.bigEndian_machine machine mprv kind plain, State.readAt_addrsFrom]

variable {rs1 rs2 rd : RegIdx} {imm : BitVec 12}

theorem exec_sd_machine (aligned : (s.readX rs1 + imm.signExtend 64).toNat % 8 = 0)
    (allowed : s.physAllowed { kind := .store, n := 8 } .machine
      { pa := (s.readX rs1 + imm.signExtend 64).toNat, gPbmt := 0, sPbmt := 0 } 8 8 = true) :
    exec (.sd rs1 rs2 imm) s =
      .next (s.writeBytes (s.readX rs1 + imm.signExtend 64).toNat (inOrder s.mbe (bytesLE (s.readX rs2) 8))).retire := by
  have xlen := State.xlen_of_machine machine wide
  have address : s.effAddr rs1 imm = s.readX rs1 + imm.signExtend 64 := by rw [State.effAddr_eq, xlen]; rfl
  have value : s.src rs2 = s.readX rs2 := by rw [State.src, xlen]; rfl
  rw [State.guarded_of_exec (exec_sd s rs1 rs2 imm) xlen, address, value]
  exact State.storeFrom_aligned machine wide mprv _ _ (by decide) rfl aligned allowed

theorem exec_sw_machine (aligned : (s.readX rs1 + imm.signExtend 64).toNat % 4 = 0)
    (allowed : s.physAllowed { kind := .store, n := 4 } .machine
      { pa := (s.readX rs1 + imm.signExtend 64).toNat, gPbmt := 0, sPbmt := 0 } 4 4 = true) :
    exec (.sw rs1 rs2 imm) s =
      .next (s.writeBytes (s.readX rs1 + imm.signExtend 64).toNat (inOrder s.mbe (bytesLE (s.readX rs2) 4))).retire := by
  have xlen := State.xlen_of_machine machine wide
  have address : s.effAddr rs1 imm = s.readX rs1 + imm.signExtend 64 := by rw [State.effAddr_eq, xlen]; rfl
  have value : s.src rs2 = s.readX rs2 := by rw [State.src, xlen]; rfl
  rw [exec_sw, address, value]
  exact State.storeFrom_aligned machine wide mprv _ _ (by decide) rfl aligned allowed

theorem exec_ld_machine (aligned : (s.readX rs1 + imm.signExtend 64).toNat % 8 = 0)
    (allowed : s.physAllowed { kind := .load, n := 8 } .machine
      { pa := (s.readX rs1 + imm.signExtend 64).toNat, gPbmt := 0, sPbmt := 0 } 8 8 = true) :
    exec (.ld rd rs1 imm) s = .next (s.writeX rd
      (ofBytes (inOrder s.mbe (s.readBytes (s.readX rs1 + imm.signExtend 64).toNat 8)))).retire := by
  have xlen := State.xlen_of_machine machine wide
  have address : s.effAddr rs1 imm = s.readX rs1 + imm.signExtend 64 := by rw [State.effAddr_eq, xlen]; rfl
  rw [State.guarded_of_exec (exec_ld s rd rs1 imm) xlen, address]
  exact State.loadTo_aligned machine wide mprv _ _ _ (by decide) rfl aligned allowed

end

theorem State.retire_writeBytes (s : State) (a : Nat) (l : List Byte) : (s.writeBytes a l).retire = { s with
    mem := (s.writeBytes a l).mem, mtime := (s.writeBytes a l).mtime, mtimecmp := (s.writeBytes a l).mtimecmp
    msip := (s.writeBytes a l).msip, pc := sxTo s.xlen (s.pc + 4), m := { s.m with instret := s.nextInstret } } := by
  rw [← State.writeAt_addrsFrom]
  exact State.retire_writeAt s _ l

/-- Bytes stored to plain memory are read back (R455). -/
theorem State.readBytes_retire_writeBytes {s : State} (wf : Memory.wf s.mem = true) {a : Nat} {l : List Byte}
    (plain : ∀ k < l.length, s.plainAddr (a + k) = true) : (s.writeBytes a l).retire.readBytes a l.length = l := by
  refine State.readBytes_eq _ a fun k hk => ?_
  rw [State.readPhys_retire, State.readPhys_writeBytes l s wf, if_pos (by omega), State.heldByte_of_plain (plain k hk),
    Nat.add_sub_cancel_left]

/-! ## What PMP and PMA allow after a store -/

section
variable {s t : State} (cfg : t.cfg = s.cfg) (entry : ∀ i, t.pmpCfg i = s.pmpCfg i)
  (matching : ∀ i y, t.pmpMatches i y = s.pmpMatches i y)
include matching

theorem State.pmpCount_congr (i pa n : Nat) : t.pmpCount i pa n = s.pmpCount i pa n := by
  induction n with
  | zero => rfl
  | succ n ih => rw [State.pmpCount, State.pmpCount, ih, matching]

include cfg entry

theorem State.pmpScan_congr (pa n : Nat) (need : Need) (mode : Priv) (left i : Nat) :
    t.pmpScan pa n need mode left i = s.pmpScan pa n need mode left i := by
  induction left generalizing i with
  | zero => rw [State.pmpScan, State.pmpScan, cfg]
  | succ left ih => simp only [State.pmpScan, ih, State.pmpCount_congr matching, entry]

/-- The check of an access depends on the entries and on what each matches. -/
theorem State.pmpCheck_congr (pa n : Nat) (need : Need) (mode : Priv) :
    t.pmpCheck pa n need mode = s.pmpCheck pa n need mode := by
  rw [State.pmpCheck, State.pmpCheck, cfg, State.pmpScan_congr cfg entry matching]

end

/-- The settings that an access is checked under: `State.pmpInUse` without the rest of the state (R481). -/
def State.pmpSettingsInUse (s : State) (guest : Bool) (pa : Nat) (need : Need) : PmpSettings :=
  let older := if guest then s.pmpStaleG else s.pmpStale
  if older = [] then { pmpcfg := s.pmpcfg, pmpaddr := s.pmpaddr }
  else older.getD (Config.freePmp s.draws (8 * pa + need.code) % (older.length + 1))
    { pmpcfg := s.pmpcfg, pmpaddr := s.pmpaddr }

theorem State.pmpInUse_eq (s : State) (guest : Bool) (pa : Nat) (need : Need) :
    s.pmpInUse guest pa need = s.withPmp (s.pmpSettingsInUse guest pa need) := by
  unfold State.pmpInUse State.pmpSettingsInUse
  generalize (if guest then s.pmpStaleG else s.pmpStale) = older
  cases older with
  | nil => rfl
  | cons p rest =>
    rw [if_neg (List.cons_ne_nil p rest), List.getD_eq_getElem?_getD, List.length_cons]
    dsimp only
    split
    · next found => rw [found]; rfl
    · next found => rw [found]; rfl

/-- A retired store changes neither the PMP registers nor what may stay of older ones, nor the regions of memory. -/
theorem State.physAllowed_retire_writeBytes (s : State) (b : Nat) (l : List Byte) (a : Acc) (p : Priv) (g : Target)
    (n width : Nat) : (s.writeBytes b l).retire.physAllowed a p g n width = s.physAllowed a p g n width := by
  have same := State.retire_writeBytes s b l
  generalize (s.writeBytes b l).retire = t at same
  have inUse (guest : Bool) : t.pmpAllowed guest g.pa n a.need p = s.pmpAllowed guest g.pa n a.need p := by
    have settings : t.pmpSettingsInUse guest g.pa a.need = s.pmpSettingsInUse guest g.pa a.need := by subst same; rfl
    rw [State.pmpAllowed, State.pmpAllowed, State.pmpInUse_eq, State.pmpInUse_eq, settings]
    subst same
    refine State.pmpCheck_congr ?_ (fun i => ?_) (fun i y => ?_) .. <;> rfl
  have mode : t.effMode a = s.effMode a := by subst same; rfl
  have region : t.regionAt g n = s.regionAt g n := by subst same; rfl
  rw [State.physAllowed, State.physAllowed, mode, region, inUse]

/-- Settles O35: the load reads the bytes of the store at the same address, in the same order. -/
theorem storeThenLoad : Obligations.StoreThenLoad := by
  unfold Obligations.StoreThenLoad
  intro s rs1 rs2 rd imm wf machine wide mprv pa aligned plain mayStore mayLoad
  let l := inOrder s.mbe (bytesLE (s.readX rs2) 8)
  have size : l.length = 8 := by rw [inOrder_length, bytesLE_length]
  have back := State.readBytes_retire_writeBytes (l := l) wf (a := pa) (by rwa [size])
  have stored := exec_sd_machine (rs2 := rs2) machine wide mprv aligned mayStore
  have same := State.retire_writeBytes s pa l
  have mayLoad' := (State.physAllowed_retire_writeBytes s pa l _ _ _ _ _).trans mayLoad
  generalize (s.writeBytes pa l).retire = t at back stored same mayLoad'
  have base : t.readX rs1 = s.readX rs1 := State.readX_congr _ _ _ (by rw [same])
  have machine' : t.priv = .machine := by rw [same, machine]
  have wide' : t.mxlen = .x64 := by subst same; exact wide
  have mprv' : t.mstatus.mprv = false := by rw [same, mprv]
  have order : t.mbe = s.mbe := by subst same; rfl
  have loaded := exec_ld_machine (rs1 := rs1) (rd := rd) (imm := imm) machine' wide' mprv' (by rwa [base]) (by rwa [base])
  rw [base] at loaded
  refine ⟨t, _, stored, loaded, fun written => ?_⟩
  rw [size] at back
  rw [State.readX_retire, State.readX_writeX, if_pos ⟨rfl, written⟩, back, order, inOrder_inOrder, ofBytes_bytesLE,
    State.xlen_of_machine machine' wide']
  rfl

/-! ## The timer and the software-interrupt word -/

/-- Bits 7 and 3 of `mip` are the timer's and the software interrupt's, and no other source has them (R920, R922). -/
theorem State.mip_device (s : State) : s.mip.getLsbD 7 = s.mtip ∧ s.mip.getLsbD 3 = s.msip := by
  have supervisor : s.sBits.getLsbD 7 = false ∧ s.sBits.getLsbD 3 = false := by
    unfold State.sBits
    split <;> simp [-BitVec.getLsbD_eq_getElem, supervisorBits_getLsbD]
  have hypervisor : s.hipStandard.getLsbD 7 = false ∧ s.hipStandard.getLsbD 3 = false := by
    unfold State.hipStandard
    split <;> simp [-BitVec.getLsbD_eq_getElem, flag_getLsbD]
  simp [-BitVec.getLsbD_eq_getElem, State.mip, flag_getLsbD, supervisor, hypervisor, State.platBits_getLsbD]

/-- Settles O60: each register is read and written byte by byte at its own addresses. -/
theorem deviceRegisters : Obligations.DeviceRegisters := by
  unfold Obligations.DeviceRegisters
  intro s rs1 rs2 rd imm
  refine ⟨s.mip_device, ⟨?_, ?_⟩, fun machine wide mprv little => ?_⟩
  · rw [s.begin_same]
    simp [BitVec.toNat_add]
  · rw [s.begin_same]
  intro pa v t0 apart
  refine ⟨?_, ?_, ?_, ?_⟩
  · intro alone there aligned allowed
    refine ⟨_, exec_sd_machine machine wide mprv aligned allowed, ?_⟩
    have written := State.writeBytes_mtimecmp (bytesLE v 8) s 0 (by rw [bytesLE_length]) alone
    rw [setBytes_whole, Nat.add_zero, ← there] at written
    rw [little]
    exact (congrArg State.retire written).trans (State.retire_setMtimecmp s _)
  · intro alone aligned allowed
    have run := exec_sw_machine (rs2 := rs2) machine wide mprv aligned allowed
    rw [little] at run
    refine ⟨fun there => ⟨_, run, ?_⟩, fun there => ⟨_, run, ?_⟩⟩
    · have written := State.writeBytes_mtimecmp (bytesLE v 4) s 0 (by rw [bytesLE_length]; decide) alone
      rw [setBytes_low, Nat.add_zero, ← there] at written
      exact (congrArg State.retire written).trans (State.retire_setMtimecmp s _)
    · have written := State.writeBytes_mtimecmp (bytesLE v 4) s 4 (by rw [bytesLE_length]) alone
      rw [setBytes_high, ← there] at written
      exact (congrArg State.retire written).trans (State.retire_setMtimecmp s _)
  · intro timer compare there aligned allowed
    refine ⟨_, exec_sw_machine machine wide mprv aligned allowed, ?_⟩
    have written := State.writeBytes_msip timer compare v
    rw [← there] at written
    rw [little]
    exact (congrArg State.retire written).trans (State.retire_setMsip s _)
  · intro there aligned allowed
    have run := exec_ld_machine (rd := rd) machine wide mprv aligned allowed
    have bytes : s.readBytes pa 8 = bytesLE s.mtime 8 := by rw [there, State.readBytes_mtime]
    rw [little, bytes] at run
    refine EndsWith.of_retire rfl (run.trans ?_)
    rw [inOrder, if_neg Bool.false_ne_true, ofBytes_bytesLE]

end Sys2Proof.Machine
end
